-- ==== Sys2Proof/Word.lean ====
section
/-! DEFINITION. Word.lean: the two value types of the 6502 core (00_scope.md R8: an 8-bit data word, a 16-bit address).
The byte-order and extension helpers over them are in Decode.lean, where a repair may mend them. -/

namespace Sys2Proof

/-- A byte, 0 to 255 (00_scope.md R11). `+` and `-` wrap modulo 256, as `wrap8` does (R12). -/
abbrev Byte := BitVec 8

/-- A word, 0 to 65535 (00_scope.md R11). `+` and `-` wrap modulo 65536, as `wrap16` does (R12). -/
abbrev Word := BitVec 16

end Sys2Proof
end

