-- ==== Sys2Proof/Config.lean ====
section
/-! DEFINITION. Config.lean: the fixed constants of 00_scope.md R9, what an unwritten byte of memory reads as (log 3), and the
one implementation parameter that is a choice among names (R10, PC_ADVANCE_RULE). The other parameters of R10 are data of
State: INIT_MEM is the memory list, POWER_ON_REGS the register fields, OBSERVER the list of its next calls. -/

namespace Sys2Proof.Config

/-- `SP_RESET` (00_scope.md R9). -/
def spReset : Byte := 0xFD

/-- `P_RESET`: Break2 and InterruptDisable set (00_scope.md R9). -/
def pReset : Byte := 0x24

/-- `STACK_BASE` (00_scope.md R9, D4; log 15). -/
def stackBase : Word := 0x0100

/-- `RESET_VECTOR`, the address of its low byte (00_scope.md R9, D5; log 15). -/
def resetVector : Word := 0xFFFC

/-- `LOAD_ORIGIN` (00_scope.md R9, D6; log 15). -/
def loadOrigin : Word := 0x0600

/-- The longest program a load takes: 0x10000 - 0x0600 bytes (70_reset_and_hazards.md R190). -/
def loadLimit : Nat := 0xFA00

/-- What an address that the memory list does not name reads as. DESIGN CHOICE (log 3): the spec leaves INIT_MEM open (D20). -/
def unwritten : Byte := 0x00

/-- `PC_ADVANCE_RULE` (00_scope.md R10, 40_fetch_execute_and_addressing.md R95, R97). -/
inductive PcAdvanceRule where
  /-- The default: an instruction that writes PC is never advanced (R95). -/
  | byKind
  /-- The letter of the source: an instruction is advanced when PC equals the baseline (R97). -/
  | byCompare
deriving DecidableEq, Repr

end Sys2Proof.Config
end

