-- ==== Sys2Proof/Syntax/Operand.lean ====
section
/-! DEFINITION. Syntax/Operand.lean: the types an instruction and a table descriptor are made of: addressing-mode tags
(30_encoding.md R67), operand forms (R68), instruction kinds (R69, R71) and descriptors (R69); and why a byte sequence does not decode. -/

namespace Sys2Proof

/-- The thirteen addressing-mode tags (30_encoding.md R67). -/
inductive Mode where
  | implied | accumulator | immediate | relative
  | zeroPage | zeroPageX | zeroPageY
  | absolute | absoluteX | absoluteY
  | indirectX | indirectY | indirect
deriving DecidableEq, Repr

/-- The operand of an instruction kind that has several addressing modes: one form a mode, with the operand bytes already
assembled (30_encoding.md R68: imm8, zp8, abs16). Implied and Relative instructions carry no `Operand`. -/
inductive Operand where
  /-- The operand is register A. -/
  | accumulator
  /-- `imm8`. -/
  | immediate (v : Byte)
  /-- `zp8`. -/
  | zeroPage (z : Byte)
  | zeroPageX (z : Byte)
  | zeroPageY (z : Byte)
  /-- `abs16`. -/
  | absolute (w : Word)
  | absoluteX (w : Word)
  | absoluteY (w : Word)
  | indirectX (z : Byte)
  | indirectY (z : Byte)
  /-- `abs16`, the address of a pointer: JMP's own form. -/
  | indirect (w : Word)
deriving DecidableEq, Repr

/-- The instruction kinds: the 56 documented mnemonics and ILLEGAL (30_encoding.md R71). -/
inductive Kind where
  | lda | ldx | ldy | sta | stx | sty | adc | sbc
  | and | ora | eor | asl | lsr | rol | ror | cmp
  | cpx | cpy | bcc | bcs | beq | bmi | bne | bpl
  | bvc | bvs | jmp | jsr | rts | rti | inc | dec
  | inx | iny | dex | dey | tax | tay | tsx | txa
  | txs | tya | pha | php | pla | plp | clc | cld
  | cli | clv | sec | sed | sei | bit | nop | brk
  | illegal
deriving DecidableEq, Repr

/-- The recorded cycle count of a descriptor; no rule reads it (30_encoding.md R69, 70_reset_and_hazards.md R200, R201). -/
inductive Cycles where
  /-- `n`. -/
  | base (n : Nat)
  /-- `n+1p`: one more when an indexed address crosses a page. -/
  | pageCross (n : Nat)
  /-- `2+t`: a branch. -/
  | branch
  /-- An ILLEGAL row. -/
  | unspecified
deriving DecidableEq, Repr

/-- A row of the opcode descriptor table (30_encoding.md R69; 10_state.md R35). -/
structure Descriptor where
  kind   : Kind
  length : Nat
  cycles : Cycles
  mode   : Mode
deriving DecidableEq, Repr

/-- Why a byte sequence is not the start of an instruction: it ends before the opcode byte or inside the operand bytes. No
opcode byte is refused: the table is total (30_encoding.md R70). -/
inductive DecodeError where
  /-- There is no opcode byte. -/
  | noBytes
  /-- The sequence ends inside the operand bytes of the opcode `op`. -/
  | truncated (op : Byte)
deriving DecidableEq, Repr

end Sys2Proof
end

