-- ==== Sys2Proof/Syntax.lean ====
section
/-! DEFINITION. Syntax.lean: the instructions. One constructor for each instruction kind of 30_encoding.md R71 (the 56 documented
mnemonics and ILLEGAL): a kind with several addressing modes takes its operand form as an argument, so that each of the 256
rows of the opcode table is one constructor with one operand form (log 1). -/

namespace Sys2Proof

/-- An instruction with its operand bytes assembled (30_encoding.md R68). -/
inductive Instr where
  /-- LDA, load accumulator (R112). -/
  | lda (o : Operand)
  /-- LDX, load index X (R113). -/
  | ldx (o : Operand)
  /-- LDY, load index Y (R114). -/
  | ldy (o : Operand)
  /-- STA, store accumulator (R115). -/
  | sta (o : Operand)
  /-- STX, store index X (R116). -/
  | stx (o : Operand)
  /-- STY, store index Y (R117). -/
  | sty (o : Operand)
  /-- ADC, add with carry (R119). -/
  | adc (o : Operand)
  /-- SBC, subtract with borrow (R120). -/
  | sbc (o : Operand)
  /-- AND, bitwise AND (R121). -/
  | and (o : Operand)
  /-- ORA, bitwise OR (R122). -/
  | ora (o : Operand)
  /-- EOR, bitwise exclusive OR (R123). -/
  | eor (o : Operand)
  /-- ASL, arithmetic shift left (R126). -/
  | asl (o : Operand)
  /-- LSR, logical shift right (R127). -/
  | lsr (o : Operand)
  /-- ROL, rotate left through carry (R128). -/
  | rol (o : Operand)
  /-- ROR, rotate right through carry (R129). -/
  | ror (o : Operand)
  /-- CMP, compare accumulator (R131). -/
  | cmp (o : Operand)
  /-- CPX, compare index X (R132). -/
  | cpx (o : Operand)
  /-- CPY, compare index Y (R133). -/
  | cpy (o : Operand)
  /-- BCC, branch if carry clear (R136). -/
  | bcc (off : Byte)
  /-- BCS, branch if carry set (R137). -/
  | bcs (off : Byte)
  /-- BEQ, branch if equal (R138). -/
  | beq (off : Byte)
  /-- BMI, branch if minus (R139). -/
  | bmi (off : Byte)
  /-- BNE, branch if not equal (R140). -/
  | bne (off : Byte)
  /-- BPL, branch if plus (R141). -/
  | bpl (off : Byte)
  /-- BVC, branch if overflow clear (R142). -/
  | bvc (off : Byte)
  /-- BVS, branch if overflow set (R143). -/
  | bvs (off : Byte)
  /-- JMP, jump, absolute or indirect (R144, R145). -/
  | jmp (o : Operand)
  /-- JSR, jump to subroutine (R146). -/
  | jsr (target : Word)
  /-- RTS, return from subroutine (R147). -/
  | rts
  /-- RTI, return from interrupt (R148). -/
  | rti
  /-- INC, increment memory (R149). -/
  | inc (o : Operand)
  /-- DEC, decrement memory (R150). -/
  | dec (o : Operand)
  /-- INX, increment X (R151). -/
  | inx
  /-- INY, increment Y (R152). -/
  | iny
  /-- DEX, decrement X (R153). -/
  | dex
  /-- DEY, decrement Y (R154). -/
  | dey
  /-- TAX, transfer A to X (R155). -/
  | tax
  /-- TAY, transfer A to Y (R156). -/
  | tay
  /-- TSX, transfer S to X (R157). -/
  | tsx
  /-- TXA, transfer X to A (R158). -/
  | txa
  /-- TXS, transfer X to S (R159). -/
  | txs
  /-- TYA, transfer Y to A (R160). -/
  | tya
  /-- PHA, push accumulator (R161). -/
  | pha
  /-- PHP, push processor status (R162). -/
  | php
  /-- PLA, pull accumulator (R163). -/
  | pla
  /-- PLP, pull processor status (R164). -/
  | plp
  /-- CLC, clear carry (R165). -/
  | clc
  /-- CLD, clear decimal mode (R166). -/
  | cld
  /-- CLI, clear interrupt disable (R167). -/
  | cli
  /-- CLV, clear overflow (R168). -/
  | clv
  /-- SEC, set carry (R169). -/
  | sec
  /-- SED, set decimal mode (R170). -/
  | sed
  /-- SEI, set interrupt disable (R171). -/
  | sei
  /-- BIT, test bits in memory against A (R172). -/
  | bit (o : Operand)
  /-- NOP, no operation (R173). -/
  | nop
  /-- BRK, stop (R174). -/
  | brk
  /-- ILLEGAL, one of the 105 undocumented opcode bytes (30_encoding.md R82; 40_fetch_execute_and_addressing.md R93). -/
  | illegal (op : Byte)
deriving DecidableEq, Repr

/-- The addressing-mode tag of an operand form (30_encoding.md R67). -/
def Operand.mode : Operand → Mode
  | .accumulator => .accumulator
  | .immediate _ => .immediate
  | .zeroPage _ => .zeroPage
  | .zeroPageX _ => .zeroPageX
  | .zeroPageY _ => .zeroPageY
  | .absolute _ => .absolute
  | .absoluteX _ => .absoluteX
  | .absoluteY _ => .absoluteY
  | .indirectX _ => .indirectX
  | .indirectY _ => .indirectY
  | .indirect _ => .indirect

/-- The kind of an instruction (30_encoding.md R71). -/
def Instr.kind : Instr → Kind
  | .lda _ => .lda
  | .ldx _ => .ldx
  | .ldy _ => .ldy
  | .sta _ => .sta
  | .stx _ => .stx
  | .sty _ => .sty
  | .adc _ => .adc
  | .sbc _ => .sbc
  | .and _ => .and
  | .ora _ => .ora
  | .eor _ => .eor
  | .asl _ => .asl
  | .lsr _ => .lsr
  | .rol _ => .rol
  | .ror _ => .ror
  | .cmp _ => .cmp
  | .cpx _ => .cpx
  | .cpy _ => .cpy
  | .bcc _ => .bcc
  | .bcs _ => .bcs
  | .beq _ => .beq
  | .bmi _ => .bmi
  | .bne _ => .bne
  | .bpl _ => .bpl
  | .bvc _ => .bvc
  | .bvs _ => .bvs
  | .jmp _ => .jmp
  | .jsr _ => .jsr
  | .rts => .rts
  | .rti => .rti
  | .inc _ => .inc
  | .dec _ => .dec
  | .inx => .inx
  | .iny => .iny
  | .dex => .dex
  | .dey => .dey
  | .tax => .tax
  | .tay => .tay
  | .tsx => .tsx
  | .txa => .txa
  | .txs => .txs
  | .tya => .tya
  | .pha => .pha
  | .php => .php
  | .pla => .pla
  | .plp => .plp
  | .clc => .clc
  | .cld => .cld
  | .cli => .cli
  | .clv => .clv
  | .sec => .sec
  | .sed => .sed
  | .sei => .sei
  | .bit _ => .bit
  | .nop => .nop
  | .brk => .brk
  | .illegal _ => .illegal

/-- The addressing-mode tag of an instruction (30_encoding.md R67; R72 to R82). -/
def Instr.mode : Instr → Mode
  | .lda o => o.mode
  | .ldx o => o.mode
  | .ldy o => o.mode
  | .sta o => o.mode
  | .stx o => o.mode
  | .sty o => o.mode
  | .adc o => o.mode
  | .sbc o => o.mode
  | .and o => o.mode
  | .ora o => o.mode
  | .eor o => o.mode
  | .asl o => o.mode
  | .lsr o => o.mode
  | .rol o => o.mode
  | .ror o => o.mode
  | .cmp o => o.mode
  | .cpx o => o.mode
  | .cpy o => o.mode
  | .jmp o => o.mode
  | .inc o => o.mode
  | .dec o => o.mode
  | .bit o => o.mode
  | .bcc _ => .relative
  | .bcs _ => .relative
  | .beq _ => .relative
  | .bmi _ => .relative
  | .bne _ => .relative
  | .bpl _ => .relative
  | .bvc _ => .relative
  | .bvs _ => .relative
  | .jsr _ => .absolute
  | .illegal _ => .implied
  | .rts | .rti | .inx | .iny | .dex | .dey | .tax | .tay | .tsx
  | .txa | .txs | .tya | .pha | .php | .pla | .plp | .clc | .cld
  | .cli | .clv | .sec | .sed | .sei | .nop | .brk => .implied

end Sys2Proof
end

