-- ==== Sys2Proof/WellFormed.lean ====
section
/-! DEFINITION. WellFormed.lean: which instructions have an encoding. Two checks: the operand form is one of the addressing modes
that 30_encoding.md R72 to R80 list for the kind, and the byte of an ILLEGAL instruction is one of the 105 of R82. Written from
those rules' own lists, not from the table the decoder uses; Laws/Decode.lean proves that the two agree. -/

namespace Sys2Proof

/-- The eight modes of ADC, SBC, AND, ORA, EOR (30_encoding.md R73), LDA (R72) and CMP (R75). -/
def aluModes : List Mode :=
  [.immediate, .zeroPage, .zeroPageX, .absolute, .absoluteX, .absoluteY, .indirectX, .indirectY]

/-- The four memory modes of the shifts (30_encoding.md R74), INC and DEC (R78). -/
def modifyModes : List Mode := [.zeroPage, .zeroPageX, .absolute, .absoluteX]

/-- The addressing modes of each kind (30_encoding.md R72 to R80, R82). -/
def Kind.modes : Kind → List Mode
  | .lda | .adc | .sbc | .and | .ora | .eor | .cmp => aluModes
  | .ldx => [.immediate, .zeroPage, .zeroPageY, .absolute, .absoluteY]
  | .ldy => [.immediate, .zeroPage, .zeroPageX, .absolute, .absoluteX]
  | .sta => [.zeroPage, .zeroPageX, .absolute, .absoluteX, .absoluteY, .indirectX, .indirectY]
  | .stx => [.zeroPage, .zeroPageY, .absolute]
  | .sty => [.zeroPage, .zeroPageX, .absolute]
  | .asl | .lsr | .rol | .ror => .accumulator :: modifyModes
  | .cpx | .cpy => [.immediate, .zeroPage, .absolute]
  | .bit => [.zeroPage, .absolute]
  | .bcc | .bcs | .beq | .bmi | .bne | .bpl | .bvc | .bvs => [.relative]
  | .jmp => [.absolute, .indirect]
  | .jsr => [.absolute]
  | .inc | .dec => modifyModes
  | .rts | .rti | .inx | .iny | .dex | .dey | .tax | .tay | .tsx | .txa | .txs | .tya
  | .pha | .php | .pla | .plp | .clc | .cld | .cli | .clv | .sec | .sed | .sei | .nop | .brk => [.implied]
  | .illegal => [.implied]

/-- The 105 ILLEGAL opcode bytes, by high nibble (30_encoding.md R82). -/
def illegalBytes : List Byte :=
  [0x02, 0x03, 0x04, 0x07, 0x0B, 0x0C, 0x0F] ++
  [0x12, 0x13, 0x14, 0x17, 0x1A, 0x1B, 0x1C, 0x1F] ++
  [0x22, 0x23, 0x27, 0x2B, 0x2F] ++
  [0x32, 0x33, 0x34, 0x37, 0x3A, 0x3B, 0x3C, 0x3F] ++
  [0x42, 0x43, 0x44, 0x47, 0x4B, 0x4F] ++
  [0x52, 0x53, 0x54, 0x57, 0x5A, 0x5B, 0x5C, 0x5F] ++
  [0x62, 0x63, 0x64, 0x67, 0x6B, 0x6F] ++
  [0x72, 0x73, 0x74, 0x77, 0x7A, 0x7B, 0x7C, 0x7F] ++
  [0x80, 0x82, 0x83, 0x87, 0x89, 0x8B, 0x8F] ++
  [0x92, 0x93, 0x97, 0x9B, 0x9C, 0x9E, 0x9F] ++
  [0xA3, 0xA7, 0xAB, 0xAF] ++
  [0xB2, 0xB3, 0xB7, 0xBB, 0xBF] ++
  [0xC2, 0xC3, 0xC7, 0xCB, 0xCF] ++
  [0xD2, 0xD3, 0xD4, 0xD7, 0xDA, 0xDB, 0xDC, 0xDF] ++
  [0xE2, 0xE3, 0xE7, 0xEB, 0xEF] ++
  [0xF2, 0xF3, 0xF4, 0xF7, 0xFA, 0xFB, 0xFC, 0xFF]

/-- An instruction that some bytes encode: its mode is one of its kind's, and an ILLEGAL byte is one of the 105. -/
def Instr.wellFormed (i : Instr) : Bool :=
  i.kind.modes.contains i.mode &&
  match i with
  | .illegal op => illegalBytes.contains op
  | _ => true

/-- The proposition that `i` is well formed. -/
abbrev Instr.WellFormed (i : Instr) : Prop := i.wellFormed = true

end Sys2Proof
end

