-- ==== Sys2Proof/Decode.lean ====
section
/-! DEFINITION. Decode.lean: the opcode_decoder and its encoder (30_encoding.md). The descriptor table is the grid of R81, row by
row; decoding looks one byte up in it (R66) and assembles the operand bytes (R68). Every byte sequence is decoded, or refused by
name when it ends too early. The encoder is written from the same table. -/

namespace Sys2Proof

/-! ### Byte order and extension (00_scope.md R11, R12) -/

/-- `cat(hi, lo)`: the word with `hi` as its upper byte (00_scope.md R12). -/
def cat (hi lo : Byte) : Word := hi ++ lo

/-- `w[7:0]` (00_scope.md R11). -/
def loByte (w : Word) : Byte := w.setWidth 8

/-- `w[15:8]` (00_scope.md R11). -/
def hiByte (w : Word) : Byte := (w >>> 8).setWidth 8

/-- `zext_16(b)` (00_scope.md R11). -/
def zext (b : Byte) : Word := b.setWidth 16

/-- `sext_16(b)`: the two's-complement sign extension (00_scope.md R11). -/
def sext (b : Byte) : Word := b.signExtend 16

/-! ### Lengths -/

/-- The length in bytes, opcode included, of an instruction in a mode (30_encoding.md R64, R67; R82 for ILLEGAL). -/
def Mode.length : Mode → Nat
  | .implied | .accumulator => 1
  | .immediate | .relative | .zeroPage | .zeroPageX | .zeroPageY | .indirectX | .indirectY => 2
  | .absolute | .absoluteX | .absoluteY | .indirect => 3

/-- The length in bytes, opcode included, of an instruction with this operand (30_encoding.md R64). -/
def Operand.length (o : Operand) : Nat := o.mode.length

/-- The length in bytes of an instruction, opcode included (30_encoding.md R64). -/
def Instr.length (i : Instr) : Nat := i.mode.length

/-! ### The opcode descriptor table -/

/-- A documented descriptor: its length is that of its mode's format (30_encoding.md R64, R69). -/
def row (kind : Kind) (mode : Mode) (cycles : Cycles) : Descriptor :=
  { kind := kind, length := mode.length, cycles := cycles, mode := mode }

/-- The descriptor of the 105 undocumented bytes (30_encoding.md R82). -/
def illegalRow : Descriptor :=
  { kind := .illegal, length := 1, cycles := .unspecified, mode := .implied }

/-- Opcode bytes 0x00 to 0x0F (30_encoding.md R81). -/
def opcodeRow0 : List Descriptor :=
  [row .brk .implied (.base 7), row .ora .indirectX (.base 6), illegalRow, illegalRow,
   illegalRow, row .ora .zeroPage (.base 3), row .asl .zeroPage (.base 5), illegalRow,
   row .php .implied (.base 3), row .ora .immediate (.base 2), row .asl .accumulator (.base 2), illegalRow,
   illegalRow, row .ora .absolute (.base 4), row .asl .absolute (.base 6), illegalRow]

/-- Opcode bytes 0x10 to 0x1F (30_encoding.md R81). -/
def opcodeRow1 : List Descriptor :=
  [row .bpl .relative .branch, row .ora .indirectY (.pageCross 5), illegalRow, illegalRow,
   illegalRow, row .ora .zeroPageX (.base 4), row .asl .zeroPageX (.base 6), illegalRow,
   row .clc .implied (.base 2), row .ora .absoluteY (.pageCross 4), illegalRow, illegalRow,
   illegalRow, row .ora .absoluteX (.pageCross 4), row .asl .absoluteX (.base 7), illegalRow]

/-- Opcode bytes 0x20 to 0x2F (30_encoding.md R81). -/
def opcodeRow2 : List Descriptor :=
  [row .jsr .absolute (.base 6), row .and .indirectX (.base 6), illegalRow, illegalRow,
   row .bit .zeroPage (.base 3), row .and .zeroPage (.base 3), row .rol .zeroPage (.base 5), illegalRow,
   row .plp .implied (.base 4), row .and .immediate (.base 2), row .rol .accumulator (.base 2), illegalRow,
   row .bit .absolute (.base 4), row .and .absolute (.base 4), row .rol .absolute (.base 6), illegalRow]

/-- Opcode bytes 0x30 to 0x3F (30_encoding.md R81). -/
def opcodeRow3 : List Descriptor :=
  [row .bmi .relative .branch, row .and .indirectY (.pageCross 5), illegalRow, illegalRow,
   illegalRow, row .and .zeroPageX (.base 4), row .rol .zeroPageX (.base 6), illegalRow,
   row .sec .implied (.base 2), row .and .absoluteY (.pageCross 4), illegalRow, illegalRow,
   illegalRow, row .and .absoluteX (.pageCross 4), row .rol .absoluteX (.base 7), illegalRow]

/-- Opcode bytes 0x40 to 0x4F (30_encoding.md R81). -/
def opcodeRow4 : List Descriptor :=
  [row .rti .implied (.base 6), row .eor .indirectX (.base 6), illegalRow, illegalRow,
   illegalRow, row .eor .zeroPage (.base 3), row .lsr .zeroPage (.base 5), illegalRow,
   row .pha .implied (.base 3), row .eor .immediate (.base 2), row .lsr .accumulator (.base 2), illegalRow,
   row .jmp .absolute (.base 3), row .eor .absolute (.base 4), row .lsr .absolute (.base 6), illegalRow]

/-- Opcode bytes 0x50 to 0x5F (30_encoding.md R81). -/
def opcodeRow5 : List Descriptor :=
  [row .bvc .relative .branch, row .eor .indirectY (.pageCross 5), illegalRow, illegalRow,
   illegalRow, row .eor .zeroPageX (.base 4), row .lsr .zeroPageX (.base 6), illegalRow,
   row .cli .implied (.base 2), row .eor .absoluteY (.pageCross 4), illegalRow, illegalRow,
   illegalRow, row .eor .absoluteX (.pageCross 4), row .lsr .absoluteX (.base 7), illegalRow]

/-- Opcode bytes 0x60 to 0x6F (30_encoding.md R81). -/
def opcodeRow6 : List Descriptor :=
  [row .rts .implied (.base 6), row .adc .indirectX (.base 6), illegalRow, illegalRow,
   illegalRow, row .adc .zeroPage (.base 3), row .ror .zeroPage (.base 5), illegalRow,
   row .pla .implied (.base 4), row .adc .immediate (.base 2), row .ror .accumulator (.base 2), illegalRow,
   row .jmp .indirect (.base 5), row .adc .absolute (.base 4), row .ror .absolute (.base 6), illegalRow]

/-- Opcode bytes 0x70 to 0x7F (30_encoding.md R81). -/
def opcodeRow7 : List Descriptor :=
  [row .bvs .relative .branch, row .adc .indirectY (.pageCross 5), illegalRow, illegalRow,
   illegalRow, row .adc .zeroPageX (.base 4), row .ror .zeroPageX (.base 6), illegalRow,
   row .sei .implied (.base 2), row .adc .absoluteY (.pageCross 4), illegalRow, illegalRow,
   illegalRow, row .adc .absoluteX (.pageCross 4), row .ror .absoluteX (.base 7), illegalRow]

/-- Opcode bytes 0x80 to 0x8F (30_encoding.md R81). -/
def opcodeRow8 : List Descriptor :=
  [illegalRow, row .sta .indirectX (.base 6), illegalRow, illegalRow,
   row .sty .zeroPage (.base 3), row .sta .zeroPage (.base 3), row .stx .zeroPage (.base 3), illegalRow,
   row .dey .implied (.base 2), illegalRow, row .txa .implied (.base 2), illegalRow,
   row .sty .absolute (.base 4), row .sta .absolute (.base 4), row .stx .absolute (.base 4), illegalRow]

/-- Opcode bytes 0x90 to 0x9F (30_encoding.md R81). -/
def opcodeRow9 : List Descriptor :=
  [row .bcc .relative .branch, row .sta .indirectY (.base 6), illegalRow, illegalRow,
   row .sty .zeroPageX (.base 4), row .sta .zeroPageX (.base 4), row .stx .zeroPageY (.base 4), illegalRow,
   row .tya .implied (.base 2), row .sta .absoluteY (.base 5), row .txs .implied (.base 2), illegalRow,
   illegalRow, row .sta .absoluteX (.base 5), illegalRow, illegalRow]

/-- Opcode bytes 0xA0 to 0xAF (30_encoding.md R81). -/
def opcodeRowA : List Descriptor :=
  [row .ldy .immediate (.base 2), row .lda .indirectX (.base 6), row .ldx .immediate (.base 2), illegalRow,
   row .ldy .zeroPage (.base 3), row .lda .zeroPage (.base 3), row .ldx .zeroPage (.base 3), illegalRow,
   row .tay .implied (.base 2), row .lda .immediate (.base 2), row .tax .implied (.base 2), illegalRow,
   row .ldy .absolute (.base 4), row .lda .absolute (.base 4), row .ldx .absolute (.base 4), illegalRow]

/-- Opcode bytes 0xB0 to 0xBF (30_encoding.md R81). -/
def opcodeRowB : List Descriptor :=
  [row .bcs .relative .branch, row .lda .indirectY (.pageCross 5), illegalRow, illegalRow,
   row .ldy .zeroPageX (.base 4), row .lda .zeroPageX (.base 4), row .ldx .zeroPageY (.base 4), illegalRow,
   row .clv .implied (.base 2), row .lda .absoluteY (.pageCross 4), row .tsx .implied (.base 2), illegalRow,
   row .ldy .absoluteX (.pageCross 4), row .lda .absoluteX (.pageCross 4), row .ldx .absoluteY (.pageCross 4), illegalRow]

/-- Opcode bytes 0xC0 to 0xCF (30_encoding.md R81). -/
def opcodeRowC : List Descriptor :=
  [row .cpy .immediate (.base 2), row .cmp .indirectX (.base 6), illegalRow, illegalRow,
   row .cpy .zeroPage (.base 3), row .cmp .zeroPage (.base 3), row .dec .zeroPage (.base 5), illegalRow,
   row .iny .implied (.base 2), row .cmp .immediate (.base 2), row .dex .implied (.base 2), illegalRow,
   row .cpy .absolute (.base 4), row .cmp .absolute (.base 4), row .dec .absolute (.base 6), illegalRow]

/-- Opcode bytes 0xD0 to 0xDF (30_encoding.md R81). -/
def opcodeRowD : List Descriptor :=
  [row .bne .relative .branch, row .cmp .indirectY (.pageCross 5), illegalRow, illegalRow,
   illegalRow, row .cmp .zeroPageX (.base 4), row .dec .zeroPageX (.base 6), illegalRow,
   row .cld .implied (.base 2), row .cmp .absoluteY (.pageCross 4), illegalRow, illegalRow,
   illegalRow, row .cmp .absoluteX (.pageCross 4), row .dec .absoluteX (.base 7), illegalRow]

/-- Opcode bytes 0xE0 to 0xEF (30_encoding.md R81). -/
def opcodeRowE : List Descriptor :=
  [row .cpx .immediate (.base 2), row .sbc .indirectX (.base 6), illegalRow, illegalRow,
   row .cpx .zeroPage (.base 3), row .sbc .zeroPage (.base 3), row .inc .zeroPage (.base 5), illegalRow,
   row .inx .implied (.base 2), row .sbc .immediate (.base 2), row .nop .implied (.base 2), illegalRow,
   row .cpx .absolute (.base 4), row .sbc .absolute (.base 4), row .inc .absolute (.base 6), illegalRow]

/-- Opcode bytes 0xF0 to 0xFF (30_encoding.md R81). -/
def opcodeRowF : List Descriptor :=
  [row .beq .relative .branch, row .sbc .indirectY (.pageCross 5), illegalRow, illegalRow,
   illegalRow, row .sbc .zeroPageX (.base 4), row .inc .zeroPageX (.base 6), illegalRow,
   row .sed .implied (.base 2), row .sbc .absoluteY (.pageCross 4), illegalRow, illegalRow,
   illegalRow, row .sbc .absoluteX (.pageCross 4), row .inc .absoluteX (.base 7), illegalRow]

/-- The opcode descriptor table `T`: 256 entries (30_encoding.md R70, R81; 10_state.md R35). -/
def opcodeTable : List Descriptor :=
  opcodeRow0 ++ opcodeRow1 ++ opcodeRow2 ++ opcodeRow3 ++ opcodeRow4 ++ opcodeRow5 ++ opcodeRow6 ++ opcodeRow7 ++
  opcodeRow8 ++ opcodeRow9 ++ opcodeRowA ++ opcodeRowB ++ opcodeRowC ++ opcodeRowD ++ opcodeRowE ++ opcodeRowF

/-- `T[op]` (30_encoding.md R66). The table has an entry for every byte, so the default is never taken. -/
def descriptor (op : Byte) : Descriptor := opcodeTable.getD op.toNat illegalRow

/-! ### Decoding -/

/-- The operand form of a mode, assembled from the operand bytes (30_encoding.md R68). Implied and Relative kinds carry no
`Operand`, so their line is never used. -/
def operandOf (m : Mode) (b1 b2 : Byte) : Operand :=
  match m with
  | .implied | .relative | .accumulator => .accumulator
  | .immediate => .immediate b1
  | .zeroPage => .zeroPage b1
  | .zeroPageX => .zeroPageX b1
  | .zeroPageY => .zeroPageY b1
  | .absolute => .absolute (cat b2 b1)
  | .absoluteX => .absoluteX (cat b2 b1)
  | .absoluteY => .absoluteY (cat b2 b1)
  | .indirectX => .indirectX b1
  | .indirectY => .indirectY b1
  | .indirect => .indirect (cat b2 b1)

/-- The instruction of a kind, given the operand form, the opcode byte, the first operand byte (rel8) and the two operand bytes as a
word (JSR's abs16); each kind takes the ones that are its own (30_encoding.md R68, R71). -/
def instrWith (k : Kind) (o : Operand) (op b1 : Byte) (w : Word) : Instr :=
  match k with
  | .lda => .lda o
  | .ldx => .ldx o
  | .ldy => .ldy o
  | .sta => .sta o
  | .stx => .stx o
  | .sty => .sty o
  | .adc => .adc o
  | .sbc => .sbc o
  | .and => .and o
  | .ora => .ora o
  | .eor => .eor o
  | .asl => .asl o
  | .lsr => .lsr o
  | .rol => .rol o
  | .ror => .ror o
  | .cmp => .cmp o
  | .cpx => .cpx o
  | .cpy => .cpy o
  | .bcc => .bcc b1
  | .bcs => .bcs b1
  | .beq => .beq b1
  | .bmi => .bmi b1
  | .bne => .bne b1
  | .bpl => .bpl b1
  | .bvc => .bvc b1
  | .bvs => .bvs b1
  | .jmp => .jmp o
  | .jsr => .jsr w
  | .rts => .rts
  | .rti => .rti
  | .inc => .inc o
  | .dec => .dec o
  | .inx => .inx
  | .iny => .iny
  | .dex => .dex
  | .dey => .dey
  | .tax => .tax
  | .tay => .tay
  | .tsx => .tsx
  | .txa => .txa
  | .txs => .txs
  | .tya => .tya
  | .pha => .pha
  | .php => .php
  | .pla => .pla
  | .plp => .plp
  | .clc => .clc
  | .cld => .cld
  | .cli => .cli
  | .clv => .clv
  | .sec => .sec
  | .sed => .sed
  | .sei => .sei
  | .bit => .bit o
  | .nop => .nop
  | .brk => .brk
  | .illegal => .illegal op

/-- The instruction with opcode byte `op` and operand bytes `b1`, `b2`. A byte that the instruction's length does not reach is
not looked at (30_encoding.md R65, R68). -/
def instrOf (op b1 b2 : Byte) : Instr :=
  instrWith (descriptor op).kind (operandOf (descriptor op).mode b1 b2) op b1 (cat b2 b1)

/-- Decodes the first instruction of a byte sequence and answers it with the bytes after it (30_encoding.md R63 to R68). -/
def decode : List Byte → Except DecodeError (Instr × List Byte)
  | [] => .error .noBytes
  | op :: rest =>
    match (descriptor op).length, rest with
    | 1, _ => .ok (instrOf op 0 0, rest)
    | 2, b1 :: rest => .ok (instrOf op b1 0, rest)
    | 3, b1 :: b2 :: rest => .ok (instrOf op b1 b2, rest)
    | _, _ => .error (.truncated op)

/-- The three bytes of a table word: bit 0 is the least significant bit of the first byte, and every bit at or above `nbits` is
0. -/
def tableWordBytes (nbits w : Nat) : List Byte :=
  let v := w % 2 ^ nbits
  [BitVec.ofNat 8 v, BitVec.ofNat 8 (v / 256), BitVec.ofNat 8 (v / 65536)]

/-- The instruction that the decoder reads from a word numbered as spec/opcode_table.json numbers it. -/
def decodeTableWord (nbits w : Nat) : Option Instr :=
  match decode (tableWordBytes nbits w) with
  | .ok (i, _) => some i
  | .error _ => none

/-! ### Encoding -/

/-- The opcode byte of a documented kind in a mode: the place in the table of the entry that holds both (30_encoding.md R81). -/
def opcodeOf (k : Kind) (m : Mode) : Option Byte :=
  (opcodeTable.findIdx? fun d => d.kind == k && d.mode == m).map (BitVec.ofNat 8)

/-- The operand bytes of an operand form, low byte first (30_encoding.md R64, R68). -/
def Operand.bytes : Operand → List Byte
  | .accumulator => []
  | .immediate b | .zeroPage b | .zeroPageX b | .zeroPageY b | .indirectX b | .indirectY b => [b]
  | .absolute w | .absoluteX w | .absoluteY w | .indirect w => [loByte w, hiByte w]

/-- The operand bytes of an instruction (30_encoding.md R64). -/
def Instr.operandBytes : Instr → List Byte
  | .lda o | .ldx o | .ldy o | .sta o | .stx o | .sty o
  | .adc o | .sbc o | .and o | .ora o | .eor o | .asl o
  | .lsr o | .rol o | .ror o | .cmp o | .cpx o | .cpy o
  | .inc o | .dec o | .bit o | .jmp o => o.bytes
  | .bcc off | .bcs off | .beq off | .bmi off | .bne off | .bpl off | .bvc off | .bvs off => [off]
  | .jsr target => [loByte target, hiByte target]
  | .rts | .rti | .inx | .iny | .dex | .dey | .tax | .tay | .tsx
  | .txa | .txs | .tya | .pha | .php | .pla | .plp | .clc | .cld
  | .cli | .clv | .sec | .sed | .sei | .nop | .brk => []
  | .illegal _ => []

/-- The bytes of a well-formed instruction (30_encoding.md R64); an instruction that has no encoding gives none. -/
def encode (i : Instr) : List Byte :=
  match i with
  | .illegal op => [op]
  | i =>
    match opcodeOf i.kind i.mode with
    | some op => op :: i.operandBytes
    | none => []

/-- The offset byte that takes a branch at address `a` to `target`, where one does: the target lies in `a+2-128 .. a+2+127`
modulo 65536 (30_encoding.md R84). -/
def branchOffset (a target : Word) : Option Byte :=
  let b := loByte (target - (a + 2))
  if a + 2 + sext b = target then some b else none

end Sys2Proof
end

