-- ==== Sys2Proof/Machine/State.lean ====
section
/-! DEFINITION. Machine/State.lean: the state of the core (10_state.md R16), the open parameters of 00_scope.md R10 held as plain
data, the host's pending operations and last answer, the reasons a step stops, and the state after reset. -/

namespace Sys2Proof.Machine

/-- The eight flags of P (10_state.md R26, R27). -/
inductive Flag where
  | c | z | i | d | b | b2 | v | n
deriving DecidableEq, Repr

/-- The reasons of a fault (60_exceptions.md R175). A fault is recorded in `State.run`; the step that raises it answers the next
state, because the spec says what that state is. A step asked of a machine that has faulted, with no host operation pending,
answers the reason: safe, since no step is taken there (R176). -/
inductive Fault where
  /-- Raised by the execution of an ILLEGAL byte: the byte and its address (40_fetch_execute_and_addressing.md R93). Safe. -/
  | illegalOpcode (op : Byte) (addr : Word)
  /-- Raised by the address resolver on a tag with no rule (40_fetch_execute_and_addressing.md R110). No byte decodes to such an
  instruction. Safe. -/
  | unresolvableMode (mode : Mode)
deriving DecidableEq, Repr

/-- The reasons a step has no meaning. -/
inductive Refusal where
  /-- Raised by an arm of `exec` whose instruction has no meaning yet. Safe. No arm raises it: every instruction has one. -/
  | notModelled (mnemonic : String)
deriving DecidableEq, Repr

/-- The loop state `run` (10_state.md R34). -/
inductive RunState where
  | running
  | halted
  | faulted (reason : Fault)
deriving DecidableEq, Repr

/-- One change an observer callback makes: a write of a register, of P, of PC or of memory (60_exceptions.md R183). There is no
change of `run` (R184). -/
inductive ObserverEdit where
  | setA (v : Byte)
  | setX (v : Byte)
  | setY (v : Byte)
  | setSp (v : Byte)
  | setP (v : Byte)
  | setPc (w : Word)
  | write8 (addr : Word) (v : Byte)
  | write16 (addr : Word) (w : Word)
deriving DecidableEq, Repr

/-- What the observer does in one call: its changes, in order (log 6). -/
abbrev ObserverCall := List ObserverEdit

/-- The host operations of 70_reset_and_hazards.md R194. -/
inductive HostOp where
  /-- `load(prog)` (R189, R190). -/
  | load (prog : List Byte)
  /-- `reset()` (R191). -/
  | reset
  /-- `run(observer)` (40_fetch_execute_and_addressing.md R88); the observer is given by its calls (log 6). -/
  | run (observer : List ObserverCall)
  /-- `load_and_run(prog, observer)` (R193). -/
  | loadAndRun (prog : List Byte) (observer : List ObserverCall)
  /-- The memory access surface, a byte or a word at any address (20_memory.md R42, R43). -/
  | read8 (addr : Word)
  | read16 (addr : Word)
  | write8 (addr : Word) (v : Byte)
  | write16 (addr : Word) (w : Word)
deriving DecidableEq, Repr

/-- What the host was told last (log 8). -/
inductive HostReply where
  /-- Nothing yet. -/
  | nothing
  /-- The operation was performed. -/
  | done
  /-- The load was refused, its program being `length` bytes long (70_reset_and_hazards.md R190). -/
  | loadRefused (length : Nat)
  /-- The byte read. -/
  | byte (v : Byte)
  /-- The word read. -/
  | word (w : Word)
deriving DecidableEq, Repr

/-- The memory `M` (20_memory.md R41) as a list of address and byte: addresses strictly rising, no byte equal to
`Config.unwritten`, which an address that is not listed reads as. -/
abbrev Memory := List Host.Cell

/-- The state (10_state.md R16), and after it the fields of the model's own. -/
structure State where
  /-- A, the accumulator. -/
  a : Byte
  /-- X, the index register. -/
  x : Byte
  /-- Y, the index register. -/
  y : Byte
  /-- S, the stack pointer. -/
  sp : Byte
  /-- PC, the program counter. -/
  pc : Word
  /-- P, the flag register (10_state.md R26, R27). -/
  p : Byte
  /-- M, the memory (20_memory.md R41). -/
  mem : Memory
  /-- The loop state (10_state.md R34). -/
  run : RunState
  /-- PC_ADVANCE_RULE (00_scope.md R10): no step changes it (log 5). -/
  pcRule : Config.PcAdvanceRule
  /-- OBSERVER (00_scope.md R10): what its next calls do, oldest first; when none is left, a call changes nothing (log 6). -/
  observer : List ObserverCall
  /-- The host operations still to be performed, oldest first (log 7). -/
  host : List HostOp
  /-- What the host was told last (log 8). -/
  reply : HostReply
deriving DecidableEq, Repr

/-- The state at power-on, before the first reset: any register values (POWER_ON_REGS), any memory (INIT_MEM), `run` Halted
(10_state.md R38, D21; log 4). -/
def State.powerOn (a x y sp p : Byte) (pc : Word) (mem : Memory) : State :=
  { a := a, x := x, y := y, sp := sp, pc := pc, p := p, mem := mem, run := .halted,
    pcRule := .byKind, observer := [], host := [], reply := .nothing }

/-- The state after reset (10_state.md R37): reset of a machine that has been powered on with no memory listed. PC is the word at
the reset vector, 0x0000 in that memory (log 3); `run` is still Halted (70_reset_and_hazards.md R192). Laws/Step.lean proves
that it is `hostReset` of every such power-on state. -/
def State.reset : State :=
  { a := 0x00, x := 0x00, y := 0x00, sp := Config.spReset, pc := cat Config.unwritten Config.unwritten,
    p := Config.pReset, mem := [], run := .halted,
    pcRule := .byKind, observer := [], host := [], reply := .nothing }

/-- What `exec` and `step` answer. -/
abbrev Result := Host.Outcome State Fault Refusal

end Sys2Proof.Machine
end

