-- ==== Sys2Proof/Machine/Flags.lean ====
section
/-! DEFINITION. Machine/Flags.lean: the flag_register (10_state.md R26 to R32) and the flag computations of the alu_8bit: the adder
(42_arithmetic_logical.md R118), the comparator (44_compare.md R130), the shifts and rotates (43_shifts_rotates.md R126 to
R129) and BIT (49_flags_bit_nop_brk.md R172). -/

namespace Sys2Proof.Machine

/-- The bit position of a flag in P (10_state.md R27). -/
def Flag.bit : Flag → Nat
  | .c => 0
  | .z => 1
  | .i => 2
  | .d => 3
  | .b => 4
  | .b2 => 5
  | .v => 6
  | .n => 7

/-- The mask of a flag in P (10_state.md R27). -/
def Flag.mask : Flag → Byte
  | .c => 0x01
  | .z => 0x02
  | .i => 0x04
  | .d => 0x08
  | .b => 0x10
  | .b2 => 0x20
  | .v => 0x40
  | .n => 0x80

/-- `get_flag(f)` on a status byte (10_state.md R28). -/
def getFlag (p : Byte) (f : Flag) : Bool := p.getLsbD f.bit

/-- `set_flag(f, v)` on a status byte: the other seven bits stay (10_state.md R28). -/
def putFlag (p : Byte) (f : Flag) (v : Bool) : Byte :=
  if v then p ||| f.mask else p &&& ~~~ f.mask

/-- `P.f` (00_scope.md R13). -/
def State.flag (s : State) (f : Flag) : Bool := getFlag s.p f

/-- `P.f <- v` (00_scope.md R13). -/
def State.setFlag (s : State) (f : Flag) (v : Bool) : State := { s with p := putFlag s.p f v }

/-- `SetZN(v)`, the source's `update_zero_negative` (10_state.md R29). -/
def setZN (v : Byte) (s : State) : State := (s.setFlag .z (v == 0)).setFlag .n (v.getLsbD 7)

/-- `AddC(a, b, cin)` = (result, carry-out, overflow) (42_arithmetic_logical.md R118). Binary whatever D holds (10_state.md R32). -/
def addC (a b : Byte) (cin : Bool) : Byte × Bool × Bool :=
  let sum := a.toNat + b.toNat + cin.toNat
  let r := BitVec.ofNat 8 sum
  (r, decide (sum > 0xFF), ((r ^^^ b) &&& (r ^^^ a) &&& 0x80) != 0)

/-- The result of ADC or SBC: A, C, V, Z and N from the adder (42_arithmetic_logical.md R119, R120). -/
def addToA (b : Byte) (s : State) : State :=
  match addC s.a b (s.flag .c) with
  | (r, c, v) => setZN r ((({ s with a := r } : State).setFlag .c c).setFlag .v v)

/-- `Compare(reg, m)`: C, Z and N; the register stays (44_compare.md R130). -/
def compareFlags (reg m : Byte) (s : State) : State :=
  setZN (reg - m) (s.setFlag .c (decide (m.toNat ≤ reg.toNat)))

/-- ASL of a byte: (result, carry-out); the carry-in is not used (43_shifts_rotates.md R126). -/
def aslByte (v : Byte) (_c0 : Bool) : Byte × Bool := (v <<< 1, v.getLsbD 7)

/-- LSR of a byte: (result, carry-out); the carry-in is not used (43_shifts_rotates.md R127). -/
def lsrByte (v : Byte) (_c0 : Bool) : Byte × Bool := (v >>> 1, v.getLsbD 0)

/-- ROL of a byte: the previous carry enters bit 0 (43_shifts_rotates.md R128). -/
def rolByte (v : Byte) (c0 : Bool) : Byte × Bool := ((v <<< 1) ||| (if c0 then 0x01 else 0x00), v.getLsbD 7)

/-- ROR of a byte: the previous carry enters bit 7 (43_shifts_rotates.md R129). -/
def rorByte (v : Byte) (c0 : Bool) : Byte × Bool := ((v >>> 1) ||| (if c0 then 0x80 else 0x00), v.getLsbD 0)

/-- BIT's flags: Z from `A & m`, N and V from m's bits 7 and 6 (49_flags_bit_nop_brk.md R172). -/
def bitFlags (m : Byte) (s : State) : State :=
  ((s.setFlag .z ((s.a &&& m) == 0)).setFlag .n (m.getLsbD 7)).setFlag .v (m.getLsbD 6)

end Sys2Proof.Machine
end

