-- ==== Sys2Proof/Machine/Ops.lean ====
section
/-! DEFINITION. Machine/Ops.lean: the memory access surface (20_memory.md R42, R43), the stack_pointer_engine (R51 to R54), the
PC-advance policy (40_fetch_execute_and_addressing.md R95 to R97), and the two events that end the loop: a fault (60_exceptions.md
R176), which is what this machine has in place of exception entry (R180), and the halt (R98). -/

namespace Sys2Proof.Machine

/-! ### Memory -/

/-- The byte that the list gives for an address. -/
def Memory.lookup : Memory → Nat → Byte
  | [], _ => Config.unwritten
  | (k, v) :: m, a => if k = a then v else Memory.lookup m a

/-- Puts a byte at an address, keeping the addresses rising; `Config.unwritten` takes the entry out. -/
def Memory.insert : Memory → Nat → Byte → Memory
  | [], a, v => if v = Config.unwritten then [] else [(a, v)]
  | (k, w) :: m, a, v =>
    if a < k then (if v = Config.unwritten then (k, w) :: m else (a, v) :: (k, w) :: m)
    else if a = k then (if v = Config.unwritten then m else (a, v) :: m)
    else (k, w) :: Memory.insert m a v

/-- `MemRead(a, 1)` (20_memory.md R42). -/
def Memory.read (m : Memory) (a : Word) : Byte := Memory.lookup m a.toNat

/-- `MemWrite(a, 1, v)` (20_memory.md R42). -/
def Memory.write (m : Memory) (a : Word) (v : Byte) : Memory := Memory.insert m a.toNat v

/-- `MemRead(a, 2)`: little-endian; at 0xFFFF the high byte is at 0x0000 (20_memory.md R43). -/
def Memory.read16 (m : Memory) (a : Word) : Word := cat (Memory.read m (a + 1)) (Memory.read m a)

/-- `MemWrite(a, 2, w)`: the low byte at `a`, then the high byte (20_memory.md R43). -/
def Memory.write16 (m : Memory) (a : Word) (w : Word) : Memory :=
  Memory.write (Memory.write m a (loByte w)) (a + 1) (hiByte w)

/-- Stores a byte sequence at consecutive addresses from `a` (70_reset_and_hazards.md R189). -/
def Memory.writeBytes : Memory → Word → List Byte → Memory
  | m, _, [] => m
  | m, a, b :: bs => Memory.writeBytes (Memory.write m a b) (a + 1) bs

/-- The canonical form from address `lo` on: addresses rising within the 65536 of 20_memory.md R39, no unwritten byte listed. -/
def Memory.wfFrom (lo : Nat) : Memory → Bool
  | [] => true
  | (k, v) :: m => decide (lo ≤ k) && decide (k < 65536) && decide (v ≠ Config.unwritten) && Memory.wfFrom (k + 1) m

/-- The canonical form of memory. -/
def Memory.wf (m : Memory) : Bool := Memory.wfFrom 0 m

/-! ### Stack -/

/-- The address of the stack byte that S names (10_state.md R21; 20_memory.md R55). -/
def stackAddress (sp : Byte) : Word := Config.stackBase + zext sp

/-- `Push8(v)`: write, then decrement (20_memory.md R51). -/
def push8 (v : Byte) (s : State) : State :=
  { s with mem := s.mem.write (stackAddress s.sp) v, sp := s.sp - 1 }

/-- `Pop8()`: increment, then read (20_memory.md R52). -/
def pop8 (s : State) : Byte × State :=
  (s.mem.read (stackAddress (s.sp + 1)), { s with sp := s.sp + 1 })

/-- `Push16(w)`: the high byte first, then the low byte (20_memory.md R53). -/
def push16 (w : Word) (s : State) : State := push8 (loByte w) (push8 (hiByte w) s)

/-- `Pop16()`: the low byte, then the high byte (20_memory.md R54). -/
def pop16 (s : State) : Word × State :=
  match pop8 s with
  | (lo, s1) =>
    match pop8 s1 with
    | (hi, s2) => (cat hi lo, s2)

/-! ### Program counter -/

/-- PC at the end of an instruction of `length` bytes whose baseline is `base` and which wrote `written` to PC, if anything. By
default an instruction that wrote PC is not advanced (40_fetch_execute_and_addressing.md R95); under BY_COMPARE it is when the
value it wrote is the baseline (R97). -/
def nextPc (rule : Config.PcAdvanceRule) (base : Word) (length : Nat) (written : Option Word) : Word :=
  let advanced := base + BitVec.ofNat 16 (length - 1)
  match written with
  | none => advanced
  | some target =>
    match rule with
    | .byKind => target
    | .byCompare => if target = base then advanced else target

/-- Step 5 for an instruction that did not write PC (40_fetch_execute_and_addressing.md R95). -/
def advance (length : Nat) (s : State) : State := { s with pc := nextPc s.pcRule s.pc length none }

/-- `PC <- target` and step 5, for an instruction of `length` bytes (40_fetch_execute_and_addressing.md R95, R97). -/
def jump (length : Nat) (target : Word) (s : State) : State :=
  { s with pc := nextPc s.pcRule s.pc length (some target) }

/-! ### The two ends of the loop -/

/-- `raise Fault(reason)`: nothing but `run` changes (00_scope.md R15; 60_exceptions.md R176). -/
def raiseFault (reason : Fault) (s : State) : State := { s with run := .faulted reason }

/-- `halt`: nothing but `run` changes (00_scope.md R15; 40_fetch_execute_and_addressing.md R98). -/
def halt (s : State) : State := { s with run := .halted }

end Sys2Proof.Machine
end

