-- ==== Sys2Proof/Machine/Operands.lean ====
section
/-! DEFINITION. Machine/Operands.lean: the address_resolver (40_fetch_execute_and_addressing.md R101 to R110) and the operand
helpers of R111. In every function here `s.pc` is the baseline, the address of the first operand byte (R92), and the operand
bytes are those the instruction carries: they were fetched before anything is written (20_memory.md R61; log 2). -/

namespace Sys2Proof.Machine

/-- The pointer at a zero-page address; its second byte wraps inside page 0 (40_fetch_execute_and_addressing.md R107, R108). -/
def zeroPagePointer (m : Memory) (z : Byte) : Word :=
  cat (m.read (zext (z + 1))) (m.read (zext z))

/-- The pointer that JMP indirect reads; its second byte wraps inside the pointer's page (46_jumps_calls_returns.md R145). -/
def pageWrappedPointer (m : Memory) (ptr : Word) : Word :=
  cat (m.read (cat (hiByte ptr) (loByte ptr + 1))) (m.read ptr)

/-- `Resolve(mode)`: the effective address (40_fetch_execute_and_addressing.md R102 to R108). The resolver has no rule for
Accumulator and Indirect (R109). -/
def effectiveAddress (o : Operand) (s : State) : Option Word :=
  match o with
  | .immediate _ => some s.pc
  | .zeroPage z => some (zext z)
  | .zeroPageX z => some (zext (z + s.x))
  | .zeroPageY z => some (zext (z + s.y))
  | .absolute w => some w
  | .absoluteX w => some (w + zext s.x)
  | .absoluteY w => some (w + zext s.y)
  | .indirectX z => some (zeroPagePointer s.mem (z + s.x))
  | .indirectY z => some (zeroPagePointer s.mem z + zext s.y)
  | .accumulator | .indirect _ => none

/-- `MemRead(ea, 1)`: the source byte of an instruction that reads through the resolver. With Immediate it is the operand byte
itself (40_fetch_execute_and_addressing.md R111). -/
def sourceByte (o : Operand) (s : State) : Option Byte :=
  match o with
  | .immediate v => some v
  | o => (effectiveAddress o s).map s.mem.read

/-- `Operand(mode, ea)` (40_fetch_execute_and_addressing.md R111). -/
def operandByte (o : Operand) (s : State) : Option Byte :=
  match o with
  | .accumulator => some s.a
  | o => sourceByte o s

/-- Where an instruction that modifies its operand puts the result. -/
def writeByte (ea : Word) (v : Byte) (s : State) : State := { s with mem := s.mem.write ea v }

/-- `WriteBack(mode, ea, v)` (40_fetch_execute_and_addressing.md R111). -/
def writeBack (o : Operand) (v : Byte) (s : State) : State :=
  match o with
  | .accumulator => { s with a := v }
  | o =>
    match effectiveAddress o s with
    | some ea => writeByte ea v s
    | none => s

/-- The fault of a mode that has no resolution rule (40_fetch_execute_and_addressing.md R110; log 11). -/
def unresolvable (o : Operand) (s : State) : Result := .next (raiseFault (.unresolvableMode o.mode) s)

/-- An instruction that reads a byte through the resolver: `f` is its effect, and PC advances past its operand bytes. -/
def withSource (o : Operand) (f : Byte → State → State) (s : State) : Result :=
  match sourceByte o s with
  | some v => .next (advance o.length (f v s))
  | none => unresolvable o s

/-- An instruction that stores `v` at its effective address (41_load_store.md R115 to R117). -/
def storeByte (o : Operand) (v : Byte) (s : State) : Result :=
  match effectiveAddress o s with
  | some ea => .next (advance o.length (writeByte ea v s))
  | none => unresolvable o s

/-- A shift or rotate of the accumulator or of a memory byte: `f` takes the byte and the previous carry (43_shifts_rotates.md R125). -/
def shiftOperand (o : Operand) (f : Byte → Bool → Byte × Bool) (s : State) : Result :=
  match operandByte o s with
  | some v =>
    match f v (s.flag .c) with
    | (r, c) => .next (advance o.length (setZN r (writeBack o r (s.setFlag .c c))))
  | none => unresolvable o s

/-- INC or DEC of a memory byte (47_increments_decrements.md R149, R150). -/
def modifyByte (o : Operand) (f : Byte → Byte) (s : State) : Result :=
  match effectiveAddress o s with
  | some ea => .next (advance o.length (setZN (f (s.mem.read ea)) (writeByte ea (f (s.mem.read ea)) s)))
  | none => unresolvable o s

/-- An instruction of one byte that does not write PC: `f` is its effect. -/
def implied (f : State → State) (s : State) : Result := .next (advance 1 (f s))

end Sys2Proof.Machine
end

