-- ==== Sys2Proof/Machine/Arithmetic.lean ====
section
/-! DEFINITION. Machine/Arithmetic.lean: ADC, SBC, AND, ORA and EOR (42_arithmetic_logical.md). -/

namespace Sys2Proof.Machine

/-- ADC: `AddC(A, m, P.C)` (42_arithmetic_logical.md R119). -/
def execAdc (o : Operand) (s : State) : Result := withSource o (fun m s => addToA m s) s

/-- SBC: `AddC(A, ~m, P.C)` (42_arithmetic_logical.md R120). -/
def execSbc (o : Operand) (s : State) : Result := withSource o (fun m s => addToA (~~~ m) s) s

/-- AND: `A <- A & m; SetZN(A)` (42_arithmetic_logical.md R121). -/
def execAnd (o : Operand) (s : State) : Result := withSource o (fun m s => setZN (s.a &&& m) { s with a := s.a &&& m }) s

/-- ORA: `A <- A | m; SetZN(A)` (42_arithmetic_logical.md R122). -/
def execOra (o : Operand) (s : State) : Result := withSource o (fun m s => setZN (s.a ||| m) { s with a := s.a ||| m }) s

/-- EOR: `A <- A ^ m; SetZN(A)` (42_arithmetic_logical.md R123). -/
def execEor (o : Operand) (s : State) : Result := withSource o (fun m s => setZN (s.a ^^^ m) { s with a := s.a ^^^ m }) s

end Sys2Proof.Machine
end

