-- ==== Sys2Proof/Machine/Branches.lean ====
section
/-! DEFINITION. Machine/Branches.lean: the eight conditional branches (45_branches.md). -/

namespace Sys2Proof.Machine

/-- `Branch(cond)`: taken, PC is `base + off + 1`; not taken, PC advances past the offset byte (45_branches.md R134). -/
def branch (cond : Bool) (off : Byte) (s : State) : Result :=
  if cond then .next (jump 2 (s.pc + sext off + 1) s) else .next (advance 2 s)

/-- BCC: `Branch(P.C = 0)` (45_branches.md R136). -/
def execBcc (off : Byte) (s : State) : Result := branch (!s.flag .c) off s

/-- BCS: `Branch(P.C = 1)` (45_branches.md R137). -/
def execBcs (off : Byte) (s : State) : Result := branch (s.flag .c) off s

/-- BEQ: `Branch(P.Z = 1)` (45_branches.md R138). -/
def execBeq (off : Byte) (s : State) : Result := branch (s.flag .z) off s

/-- BMI: `Branch(P.N = 1)` (45_branches.md R139). -/
def execBmi (off : Byte) (s : State) : Result := branch (s.flag .n) off s

/-- BNE: `Branch(P.Z = 0)` (45_branches.md R140). -/
def execBne (off : Byte) (s : State) : Result := branch (!s.flag .z) off s

/-- BPL: `Branch(P.N = 0)` (45_branches.md R141). -/
def execBpl (off : Byte) (s : State) : Result := branch (!s.flag .n) off s

/-- BVC: `Branch(P.V = 0)` (45_branches.md R142). -/
def execBvc (off : Byte) (s : State) : Result := branch (!s.flag .v) off s

/-- BVS: `Branch(P.V = 1)` (45_branches.md R143). -/
def execBvs (off : Byte) (s : State) : Result := branch (s.flag .v) off s

end Sys2Proof.Machine
end

