-- ==== Sys2Proof/Machine/Compare.lean ====
section
/-! DEFINITION. Machine/Compare.lean: CMP, CPX and CPY (44_compare.md). -/

namespace Sys2Proof.Machine

/-- CMP: `Compare(A, m)` (44_compare.md R131). -/
def execCmp (o : Operand) (s : State) : Result := withSource o (fun m s => compareFlags s.a m s) s

/-- CPX: `Compare(X, m)` (44_compare.md R132). -/
def execCpx (o : Operand) (s : State) : Result := withSource o (fun m s => compareFlags s.x m s) s

/-- CPY: `Compare(Y, m)` (44_compare.md R133). -/
def execCpy (o : Operand) (s : State) : Result := withSource o (fun m s => compareFlags s.y m s) s

end Sys2Proof.Machine
end

