-- ==== Sys2Proof/Machine/FlagsBitNopBrk.lean ====
section
/-! DEFINITION. Machine/FlagsBitNopBrk.lean: the flag instructions, BIT, NOP and BRK (49_flags_bit_nop_brk.md), and the ILLEGAL bytes (40_fetch_execute_and_addressing.md R93). -/

namespace Sys2Proof.Machine

/-- CLC: `P.C <- 0` (49_flags_bit_nop_brk.md R165). -/
def execClc (s : State) : Result := implied (fun s => s.setFlag .c false) s

/-- CLD: `P.D <- 0` (49_flags_bit_nop_brk.md R166). -/
def execCld (s : State) : Result := implied (fun s => s.setFlag .d false) s

/-- CLI: `P.I <- 0` (49_flags_bit_nop_brk.md R167). -/
def execCli (s : State) : Result := implied (fun s => s.setFlag .i false) s

/-- CLV: `P.V <- 0` (49_flags_bit_nop_brk.md R168). -/
def execClv (s : State) : Result := implied (fun s => s.setFlag .v false) s

/-- SEC: `P.C <- 1` (49_flags_bit_nop_brk.md R169). -/
def execSec (s : State) : Result := implied (fun s => s.setFlag .c true) s

/-- SED: `P.D <- 1` (49_flags_bit_nop_brk.md R170). -/
def execSed (s : State) : Result := implied (fun s => s.setFlag .d true) s

/-- SEI: `P.I <- 1` (49_flags_bit_nop_brk.md R171). -/
def execSei (s : State) : Result := implied (fun s => s.setFlag .i true) s

/-- BIT: Z from `A & m`, N and V from m (49_flags_bit_nop_brk.md R172). -/
def execBit (o : Operand) (s : State) : Result := withSource o (fun m s => bitFlags m s) s

/-- NOP: nothing but the PC advance (49_flags_bit_nop_brk.md R173). -/
def execNop (s : State) : Result := implied (fun s => s) s

/-- BRK: `run <- Halted`; the step ends at once, PC at the baseline (49_flags_bit_nop_brk.md R174; 40_fetch_execute_and_addressing.md
R98). -/
def execBrk (s : State) : Result := .next (halt s)

/-- An ILLEGAL byte: `Fault(IllegalOpcode(op, addr))` with `addr` the opcode's own address; PC stays at the baseline and nothing else
changes (40_fetch_execute_and_addressing.md R93; 60_exceptions.md R176). The answer is the next state that the rule gives (log 10). -/
def execIllegal (op : Byte) (s : State) : Result := .next (raiseFault (.illegalOpcode op (s.pc - 1)) s)

end Sys2Proof.Machine
end

