-- ==== Sys2Proof/Machine/IncDec.lean ====
section
/-! DEFINITION. Machine/IncDec.lean: INC, DEC, INX, INY, DEX and DEY (47_increments_decrements.md). -/

namespace Sys2Proof.Machine

/-- INC: `r <- wrap8(v + 1)` at `ea`; `SetZN(r)` (47_increments_decrements.md R149). -/
def execInc (o : Operand) (s : State) : Result := modifyByte o (fun v => v + 1) s

/-- DEC: `r <- wrap8(v - 1)` at `ea`; `SetZN(r)` (47_increments_decrements.md R150). -/
def execDec (o : Operand) (s : State) : Result := modifyByte o (fun v => v - 1) s

/-- INX: `X <- wrap8(X + 1); SetZN(X)` (47_increments_decrements.md R151). -/
def execInx (s : State) : Result := implied (fun s => setZN (s.x + 1) { s with x := s.x + 1 }) s

/-- INY: `Y <- wrap8(Y + 1); SetZN(Y)` (47_increments_decrements.md R152). -/
def execIny (s : State) : Result := implied (fun s => setZN (s.y + 1) { s with y := s.y + 1 }) s

/-- DEX: `X <- wrap8(X - 1); SetZN(X)` (47_increments_decrements.md R153). -/
def execDex (s : State) : Result := implied (fun s => setZN (s.x - 1) { s with x := s.x - 1 }) s

/-- DEY: `Y <- wrap8(Y - 1); SetZN(Y)` (47_increments_decrements.md R154). -/
def execDey (s : State) : Result := implied (fun s => setZN (s.y - 1) { s with y := s.y - 1 }) s

end Sys2Proof.Machine
end

