-- ==== Sys2Proof/Machine/Jumps.lean ====
section
/-! DEFINITION. Machine/Jumps.lean: JMP, JSR, RTS and RTI (46_jumps_calls_returns.md). -/

namespace Sys2Proof.Machine

/-- JMP: `PC <- ea` in the absolute form (46_jumps_calls_returns.md R144); in the indirect form PC is the word that the pointer
names, read without leaving the pointer's page (R145). -/
def execJmp (o : Operand) (s : State) : Result :=
  match o with
  | .indirect ptr => .next (jump 3 (pageWrappedPointer s.mem ptr) s)
  | o =>
    match effectiveAddress o s with
    | some ea => .next (jump o.length ea s)
    | none => unresolvable o s

/-- JSR: `Push16(wrap16(base + 1)); PC <- t` (46_jumps_calls_returns.md R146). -/
def execJsr (target : Word) (s : State) : Result := .next (jump 3 target (push16 (s.pc + 1) s))

/-- RTS: `w <- Pop16(); PC <- wrap16(w + 1)` (46_jumps_calls_returns.md R147). -/
def execRts (s : State) : Result :=
  match pop16 s with
  | (w, s1) => .next (jump 1 (w + 1) s1)

/-- The status that RTI restores: the popped byte with B = 0 and B2 = 1 (46_jumps_calls_returns.md R148). -/
def returnStatus (popped : Byte) : Byte := putFlag (putFlag popped .b false) .b2 true

/-- RTI, the return that has no exception entry beside it (60_exceptions.md R180, R181): `P <- Pop8(); P.B <- 0; P.B2 <- 1;
PC <- Pop16()` (46_jumps_calls_returns.md R148). -/
def execRti (s : State) : Result :=
  match pop8 s with
  | (p, s1) =>
    match pop16 { s1 with p := returnStatus p } with
    | (w, s2) => .next (jump 1 w s2)

end Sys2Proof.Machine
end

