-- ==== Sys2Proof/Machine/LoadStore.lean ====
section
/-! DEFINITION. Machine/LoadStore.lean: LDA, LDX, LDY, STA, STX and STY (41_load_store.md). -/

namespace Sys2Proof.Machine

/-- LDA: `A <- v; SetZN(v)` (41_load_store.md R112). -/
def execLda (o : Operand) (s : State) : Result := withSource o (fun v s => setZN v { s with a := v }) s

/-- LDX: `X <- v; SetZN(v)` (41_load_store.md R113). -/
def execLdx (o : Operand) (s : State) : Result := withSource o (fun v s => setZN v { s with x := v }) s

/-- LDY: `Y <- v; SetZN(v)` (41_load_store.md R114). -/
def execLdy (o : Operand) (s : State) : Result := withSource o (fun v s => setZN v { s with y := v }) s

/-- STA: `MemWrite(ea, 1, A)` (41_load_store.md R115). -/
def execSta (o : Operand) (s : State) : Result := storeByte o s.a s

/-- STX: `MemWrite(ea, 1, X)` (41_load_store.md R116). -/
def execStx (o : Operand) (s : State) : Result := storeByte o s.x s

/-- STY: `MemWrite(ea, 1, Y)` (41_load_store.md R117). -/
def execSty (o : Operand) (s : State) : Result := storeByte o s.y s

end Sys2Proof.Machine
end

