-- ==== Sys2Proof/Machine/Shifts.lean ====
section
/-! DEFINITION. Machine/Shifts.lean: ASL, LSR, ROL and ROR (43_shifts_rotates.md). -/

namespace Sys2Proof.Machine

/-- ASL, accumulator and memory forms (43_shifts_rotates.md R126). -/
def execAsl (o : Operand) (s : State) : Result := shiftOperand o aslByte s

/-- LSR, accumulator and memory forms (43_shifts_rotates.md R127). -/
def execLsr (o : Operand) (s : State) : Result := shiftOperand o lsrByte s

/-- ROL, accumulator and memory forms (43_shifts_rotates.md R128). -/
def execRol (o : Operand) (s : State) : Result := shiftOperand o rolByte s

/-- ROR, accumulator and memory forms (43_shifts_rotates.md R129). -/
def execRor (o : Operand) (s : State) : Result := shiftOperand o rorByte s

end Sys2Proof.Machine
end

