-- ==== Sys2Proof/Machine/Transfers.lean ====
section
/-! DEFINITION. Machine/Transfers.lean: the register transfers and the stack instructions (48_transfers_stack.md). -/

namespace Sys2Proof.Machine

/-- TAX: `X <- A; SetZN(X)` (48_transfers_stack.md R155). -/
def execTax (s : State) : Result := implied (fun s => setZN s.a { s with x := s.a }) s

/-- TAY: `Y <- A; SetZN(Y)` (48_transfers_stack.md R156). -/
def execTay (s : State) : Result := implied (fun s => setZN s.a { s with y := s.a }) s

/-- TSX: `X <- S; SetZN(X)` (48_transfers_stack.md R157). -/
def execTsx (s : State) : Result := implied (fun s => setZN s.sp { s with x := s.sp }) s

/-- TXA: `A <- X; SetZN(A)` (48_transfers_stack.md R158). -/
def execTxa (s : State) : Result := implied (fun s => setZN s.x { s with a := s.x }) s

/-- TXS: `S <- X`; no flag (48_transfers_stack.md R159). -/
def execTxs (s : State) : Result := implied (fun s => { s with sp := s.x }) s

/-- TYA: `A <- Y; SetZN(A)` (48_transfers_stack.md R160). -/
def execTya (s : State) : Result := implied (fun s => setZN s.y { s with a := s.y }) s

/-- PHA: `Push8(A)` (48_transfers_stack.md R161). -/
def execPha (s : State) : Result := implied (fun s => push8 s.a s) s

/-- PHP: `Push8(P | 0x30)` (48_transfers_stack.md R162; log 17). -/
def execPhp (s : State) : Result := implied (fun s => push8 (s.p ||| 0x30) s) s

/-- PLA: `A <- Pop8(); SetZN(A)` (48_transfers_stack.md R163). -/
def execPla (s : State) : Result :=
  match pop8 s with
  | (v, s1) => implied (fun s => setZN v { s with a := v }) s1

/-- PLP: `P <- Pop8()`, verbatim (48_transfers_stack.md R164). -/
def execPlp (s : State) : Result :=
  match pop8 s with
  | (v, s1) => implied (fun s => { s with p := v }) s1

end Sys2Proof.Machine
end

