-- ==== Sys2Proof/Machine/Fetch.lean ====
section
/-! DEFINITION. Machine/Fetch.lean: the fetch and decode of a step (40_fetch_execute_and_addressing.md R91, R92), and what the host
and the observer do: the observer's calls (R90), program load, reset, run, load-and-run and the memory access surface
(70_reset_and_hazards.md). -/

namespace Sys2Proof.Machine

/-! ### Fetch -/

/-- The instruction at PC. Reading has no side effect (20_memory.md R40), so looking at two bytes after an opcode that has fewer
operand bytes changes nothing: `instrOf` does not use them. -/
def fetchInstr (s : State) : Instr :=
  instrOf (s.mem.read s.pc) (s.mem.read (s.pc + 1)) (s.mem.read (s.pc + 2))

/-- Steps 2 to 5 for the instruction at PC: PC becomes the baseline, and the instruction runs (40_fetch_execute_and_addressing.md R89). -/
def runInstr (s : State) : Result := exec (fetchInstr s) { s with pc := s.pc + 1 }

/-! ### The observer -/

/-- One change that an observer makes (60_exceptions.md R183). -/
def applyEdit (s : State) : ObserverEdit → State
  | .setA v => { s with a := v }
  | .setX v => { s with x := v }
  | .setY v => { s with y := v }
  | .setSp v => { s with sp := v }
  | .setP v => { s with p := v }
  | .setPc w => { s with pc := w }
  | .write8 a v => { s with mem := s.mem.write a v }
  | .write16 a w => { s with mem := s.mem.write16 a w }

/-- One call of an observer: its changes, in order. -/
def applyCall : ObserverCall → State → State
  | [], s => s
  | e :: es, s => applyCall es (applyEdit s e)

/-- Step 1: the next call of the observer, where one is left; otherwise the identity (40_fetch_execute_and_addressing.md R88, R90). -/
def observe (s : State) : State :=
  match s.observer with
  | [] => s
  | call :: calls => applyCall call { s with observer := calls }

/-- One step of a running core whose observer is the function `obs` (40_fetch_execute_and_addressing.md R89). -/
def runObserved (obs : State → State) (s : State) : Result := runInstr (obs s)

/-! ### Host operations -/

/-- Whether a program fits (70_reset_and_hazards.md R190). -/
def fits (prog : List Byte) : Bool := decide (prog.length ≤ Config.loadLimit)

/-- `load(prog)` of a program that fits: the bytes, then the vector (70_reset_and_hazards.md R189). -/
def loadProgram (prog : List Byte) (s : State) : State :=
  { s with mem := (s.mem.writeBytes Config.loadOrigin prog).write16 Config.resetVector Config.loadOrigin }

/-- `reset()` (70_reset_and_hazards.md R191, R192). -/
def hostReset (s : State) : State :=
  { s with a := 0x00, x := 0x00, y := 0x00, sp := Config.spReset, p := Config.pReset,
           pc := s.mem.read16 Config.resetVector }

/-- The start of `run(observer)`: nothing at all when Faulted (40_fetch_execute_and_addressing.md R88; 60_exceptions.md R176). -/
def startRun (calls : List ObserverCall) (s : State) : State :=
  match s.run with
  | .faulted _ => s
  | .running | .halted => { s with run := .running, observer := calls }

/-- The answer to the host. -/
def tell (r : HostReply) (s : State) : State := { s with reply := r }

/-- A host operation, performed while `run` is not Running (70_reset_and_hazards.md R194). -/
def hostStep (op : HostOp) (s : State) : State :=
  match op with
  | .load prog => if fits prog then tell .done (loadProgram prog s) else tell (.loadRefused prog.length) s
  | .reset => tell .done (hostReset s)
  | .run calls => tell .done (startRun calls s)
  | .loadAndRun prog calls =>
    if fits prog then tell .done (startRun calls (hostReset (loadProgram prog s)))
    else tell (.loadRefused prog.length) s
  | .read8 a => tell (.byte (s.mem.read a)) s
  | .read16 a => tell (.word (s.mem.read16 a)) s
  | .write8 a v => tell .done { s with mem := s.mem.write a v }
  | .write16 a w => tell .done { s with mem := s.mem.write16 a w }

/-- What a machine that is not Running does when a step is asked of it: the oldest host operation; with none pending, a halted
machine stays as it is and a faulted one answers its fault (60_exceptions.md R176, R188; log 7, log 9). -/
def stoppedStep (s : State) : Result :=
  match s.host with
  | op :: rest => .next (hostStep op { s with host := rest })
  | [] =>
    match s.run with
    | .faulted r => .fault r
    | .running | .halted => .next s

/-! ### Placing an instruction -/

/-- Stores the bytes of a table word at PC. -/
def placeWord (nbits w : Nat) (s : State) : State :=
  { s with mem := s.mem.writeBytes s.pc (tableWordBytes nbits w) }

end Sys2Proof.Machine
end

