-- ==== Sys2Proof/Machine/Step.lean ====
section
/-! DEFINITION. Machine/Step.lean: one step of the machine, and placing an instruction where the next step fetches it. -/

namespace Sys2Proof.Machine

/-- One step: of the loop while `run` is Running (40_fetch_execute_and_addressing.md R89), of the host otherwise
(70_reset_and_hazards.md R194). -/
def step (s : State) : Host.Outcome State Fault Refusal :=
  match s.run with
  | .running => runObserved observe s
  | .halted | .faulted _ => stoppedStep s

/-- `s` about to run the instruction that the table word `w` gives: its bytes are stored at PC, and the loop is Running with no
observer call left, as after `run` with no observer (log 12). -/
def State.withFetchWord (s : State) (nbits w : Nat) : State :=
  { placeWord nbits w s with run := .running, observer := [] }

end Sys2Proof.Machine
end

