-- ==== Sys2Proof/Machine/Assembly.lean ====
section
/-! DEFINITION. Machine/Assembly.lean: the assembler text of an instruction (30_encoding.md R84; D31: not normative). No rule of the
machine uses it. -/

namespace Sys2Proof

/-- A hexadecimal digit. -/
def hexDigit (n : Nat) : String :=
  ["0", "1", "2", "3", "4", "5", "6", "7", "8", "9", "A", "B", "C", "D", "E", "F"].getD n "?"

/-- The two digits of a byte. -/
def hexByte (b : Byte) : String := hexDigit (b.toNat / 16) ++ hexDigit (b.toNat % 16)

/-- The four digits of a word. -/
def hexWord (w : Word) : String := hexByte (hiByte w) ++ hexByte (loByte w)

/-- The mnemonic of a kind, in the spec's own spelling: SEC, SED and SEI, not SLC, SLD and SLI (30_encoding.md R71, R85). An
ILLEGAL byte has none and is written as data. -/
def Kind.mnemonic : Kind → String
  | .lda => "LDA"
  | .ldx => "LDX"
  | .ldy => "LDY"
  | .sta => "STA"
  | .stx => "STX"
  | .sty => "STY"
  | .adc => "ADC"
  | .sbc => "SBC"
  | .and => "AND"
  | .ora => "ORA"
  | .eor => "EOR"
  | .asl => "ASL"
  | .lsr => "LSR"
  | .rol => "ROL"
  | .ror => "ROR"
  | .cmp => "CMP"
  | .cpx => "CPX"
  | .cpy => "CPY"
  | .bcc => "BCC"
  | .bcs => "BCS"
  | .beq => "BEQ"
  | .bmi => "BMI"
  | .bne => "BNE"
  | .bpl => "BPL"
  | .bvc => "BVC"
  | .bvs => "BVS"
  | .jmp => "JMP"
  | .jsr => "JSR"
  | .rts => "RTS"
  | .rti => "RTI"
  | .inc => "INC"
  | .dec => "DEC"
  | .inx => "INX"
  | .iny => "INY"
  | .dex => "DEX"
  | .dey => "DEY"
  | .tax => "TAX"
  | .tay => "TAY"
  | .tsx => "TSX"
  | .txa => "TXA"
  | .txs => "TXS"
  | .tya => "TYA"
  | .pha => "PHA"
  | .php => "PHP"
  | .pla => "PLA"
  | .plp => "PLP"
  | .clc => "CLC"
  | .cld => "CLD"
  | .cli => "CLI"
  | .clv => "CLV"
  | .sec => "SEC"
  | .sed => "SED"
  | .sei => "SEI"
  | .bit => "BIT"
  | .nop => "NOP"
  | .brk => "BRK"
  | .illegal => ".byte"

/-- The operand text of each mode (30_encoding.md R84). -/
def operandText : Operand → String
  | .accumulator => " A"
  | .immediate v => " #$" ++ hexByte v
  | .zeroPage z => " $" ++ hexByte z
  | .zeroPageX z => " $" ++ hexByte z ++ ",X"
  | .zeroPageY z => " $" ++ hexByte z ++ ",Y"
  | .absolute w => " $" ++ hexWord w
  | .absoluteX w => " $" ++ hexWord w ++ ",X"
  | .absoluteY w => " $" ++ hexWord w ++ ",Y"
  | .indirectX z => " ($" ++ hexByte z ++ ",X)"
  | .indirectY z => " ($" ++ hexByte z ++ "),Y"
  | .indirect w => " ($" ++ hexWord w ++ ")"

/-- The text after the mnemonic; a branch at address `a` is written with its target (30_encoding.md R84). -/
def argumentText (a : Word) : Instr → String
  | .lda o | .ldx o | .ldy o | .sta o | .stx o | .sty o
  | .adc o | .sbc o | .and o | .ora o | .eor o | .asl o
  | .lsr o | .rol o | .ror o | .cmp o | .cpx o | .cpy o
  | .inc o | .dec o | .bit o | .jmp o => operandText o
  | .bcc off | .bcs off | .beq off | .bmi off | .bne off | .bpl off | .bvc off | .bvs off =>
    " $" ++ hexWord (a + 2 + sext off)
  | .jsr target => " $" ++ hexWord target
  | .illegal op => " $" ++ hexByte op
  | .rts | .rti | .inx | .iny | .dex | .dey | .tax | .tay | .tsx
  | .txa | .txs | .tya | .pha | .php | .pla | .plp | .clc | .cld
  | .cli | .clv | .sec | .sed | .sei | .nop | .brk => ""

/-- The assembler text of the instruction at address `a` (30_encoding.md R84). -/
def assemblyText (a : Word) (i : Instr) : String := i.kind.mnemonic ++ argumentText a i

end Sys2Proof
end

