-- ==== Sys2Proof/Safety.lean ====
section
/-! DEFINITION. Safety.lean: what counts as a safe run, the invariant of the machine, and the words that the statements are written
in: what an instruction keeps, where its flags come from, which opcode bytes a kind has. -/

namespace Sys2Proof.Machine

/-! ### Safe runs and the invariant -/

/-- A run is safe in a state where the loop has not faulted (60_exceptions.md R175, R176). -/
def Safe (s : State) : Prop := ∀ r, s.run ≠ .faulted r

/-- The faults that a machine can have recorded: one of the 105 ILLEGAL bytes, never an unresolvable mode (60_exceptions.md R175). -/
def LegalRun : RunState → Prop
  | .running | .halted => True
  | .faulted (.illegalOpcode op _) => op ∈ illegalBytes
  | .faulted (.unresolvableMode _) => False

/-- The invariant: memory is in its canonical form, and a recorded fault is one that the spec says can occur. -/
def Inv (s : State) : Prop := s.mem.wf = true ∧ LegalRun s.run

/-! ### What is kept -/

/-- The registers of 10_state.md R16 that are not PC or P. -/
inductive Reg where
  | a | x | y | sp
deriving DecidableEq, Repr

/-- The value of a register. -/
def State.reg (s : State) : Reg → Byte
  | .a => s.a
  | .x => s.x
  | .y => s.y
  | .sp => s.sp

/-- Every register outside `except` has the value it had. -/
def KeepsRegs (except : List Reg) (s t : State) : Prop := ∀ r, r ∉ except → t.reg r = s.reg r

/-- Every flag outside `except` has the value it had. -/
def KeepsFlags (except : List Flag) (s t : State) : Prop := ∀ f, f ∉ except → t.flag f = s.flag f

/-- Every byte of memory outside `except` reads as it did. -/
def KeepsMem (except : List Word) (s t : State) : Prop := ∀ a, a ∉ except → t.mem.read a = s.mem.read a

/-- The model's own fields are as they were. -/
def KeepsHost (s t : State) : Prop :=
  t.pcRule = s.pcRule ∧ t.observer = s.observer ∧ t.host = s.host ∧ t.reply = s.reply

/-- An instruction that ends no loop keeps `run` and the model's own fields. -/
def KeepsLoop (s t : State) : Prop := t.run = s.run ∧ KeepsHost s t

/-! ### Results -/

/-- Z and N as `SetZN(v)` leaves them (10_state.md R29). -/
def ZNFrom (v : Byte) (t : State) : Prop := (t.flag .z = true ↔ v = 0) ∧ (t.flag .n = true ↔ 128 ≤ v.toNat)

/-- PC after an instruction that did not write it: past its operand bytes, `s.pc` being the baseline. -/
def Advanced (length : Nat) (s t : State) : Prop := t.pc = s.pc + BitVec.ofNat 16 (length - 1)

/-- PC after an instruction of `length` bytes that wrote `target` to it: the target, but under BY_COMPARE a target equal to the
baseline is advanced (40_fetch_execute_and_addressing.md R95, R97). -/
def WentTo (target : Word) (length : Nat) (s t : State) : Prop :=
  (s.pcRule = .byKind ∨ target ≠ s.pc → t.pc = target) ∧
  (s.pcRule = .byCompare ∧ target = s.pc → t.pc = s.pc + BitVec.ofNat 16 (length - 1))

/-- The opcode table holds the kind `k` at these bytes with these modes, and at no other byte. -/
def HasOpcodes (k : Kind) (rows : List (Byte × Mode)) : Prop :=
  (∀ op, (descriptor op).kind = k → (op, (descriptor op).mode) ∈ rows) ∧
  (∀ r ∈ rows, (descriptor r.1).kind = k ∧ (descriptor r.1).mode = r.2)

/-- `P.C` as a number (00_scope.md R12: a boolean used as a bit is 1 for true). -/
def State.carry (s : State) : Nat := (s.flag .c).toNat

/-- An instruction that changes only registers, flags and PC: `regs` and `flags` are all it may change of them, and PC goes past its
operand bytes. -/
def OnlyChanges (regs : List Reg) (flags : List Flag) (length : Nat) (s t : State) : Prop :=
  KeepsRegs regs s t ∧ KeepsFlags flags s t ∧ KeepsMem [] s t ∧ KeepsLoop s t ∧ Advanced length s t

/-- The result `r` of an instruction that modifies its operand went to A in the accumulator form, with memory kept, and to the
effective address in a memory form, with every register and every other byte kept (40_fetch_execute_and_addressing.md R111). -/
def WroteBack (o : Operand) (r : Byte) (s t : State) : Prop :=
  (o = .accumulator → t.a = r ∧ KeepsRegs [.a] s t ∧ KeepsMem [] s t) ∧
  (∀ ea, effectiveAddress o s = some ea → t.mem.read ea = r ∧ KeepsMem [ea] s t ∧ KeepsRegs [] s t)

/-- The address of the stack byte for a value of S (10_state.md R21; 20_memory.md R55). -/
def stackCell (sp : Nat) : Word := BitVec.ofNat 16 (0x0100 + sp % 256)

/-- What a branch with this condition leaves: PC and nothing else (45_branches.md R134). -/
def Branched (cond : Bool) (off : Byte) (s t : State) : Prop :=
  (cond = true → WentTo (BitVec.ofInt 16 (s.pc.toNat + 1 + off.toInt)) 2 s t) ∧
  (cond = false → Advanced 2 s t) ∧
  KeepsRegs [] s t ∧ KeepsFlags [] s t ∧ KeepsMem [] s t ∧ KeepsLoop s t

/-! ### Who writes what (10_state.md R18, R22, R31; 20_memory.md R46) -/

/-- The kinds that `SetZN` is called by (10_state.md R31). -/
def setZNCallers : List Kind :=
  [.lda, .ldx, .ldy, .adc, .sbc, .and, .ora, .eor, .asl, .lsr, .rol, .ror, .inc, .dec, .inx, .iny, .dex, .dey,
   .tax, .tay, .tsx, .txa, .tya, .pla]

/-- The kinds that write each flag (10_state.md R31); PLP and RTI write them all. -/
def flagWriters : Flag → List Kind
  | .c => [.adc, .sbc, .asl, .lsr, .rol, .ror, .cmp, .cpx, .cpy, .clc, .sec, .plp, .rti]
  | .z => setZNCallers ++ [.cmp, .cpx, .cpy, .bit, .plp, .rti]
  | .i => [.cli, .sei, .plp, .rti]
  | .d => [.cld, .sed, .plp, .rti]
  | .b => [.plp, .rti]
  | .b2 => [.plp, .rti]
  | .v => [.adc, .sbc, .bit, .clv, .plp, .rti]
  | .n => setZNCallers ++ [.cmp, .cpx, .cpy, .bit, .plp, .rti]

/-- The shifts and rotates (30_encoding.md R74). -/
def shiftKinds : List Kind := [.asl, .lsr, .rol, .ror]

/-- The kinds that write each register (10_state.md R18, R22); a shift writes A in its accumulator form only. -/
def regWriters : Reg → List Kind
  | .a => [.lda, .adc, .sbc, .and, .ora, .eor, .txa, .tya, .pla]
  | .x => [.ldx, .inx, .dex, .tax, .tsx]
  | .y => [.ldy, .iny, .dey, .tay]
  | .sp => [.txs, .pha, .php, .pla, .plp, .jsr, .rts, .rti]

/-- The kinds that write memory in every form (20_memory.md R46); a shift does in its memory forms only. -/
def memWriters : List Kind := [.sta, .stx, .sty, .inc, .dec, .pha, .php, .jsr]

/-- The branches (30_encoding.md R71). -/
def branchKinds : List Kind := [.bcc, .bcs, .beq, .bmi, .bne, .bpl, .bvc, .bvs]

/-- The kinds that write PC, a branch only when it is taken (40_fetch_execute_and_addressing.md R96). -/
def pcWriters : List Kind := [.jmp, .jsr, .rts, .rti] ++ branchKinds

end Sys2Proof.Machine
end

