-- ==== Sys2Proof/Certificates/Slice0/Obligations.lean ====
section
/-! DEFINITION. Certificates/Slice0/Obligations.lean: the statements for the provers. In a statement about `exec`, the state's PC is
the baseline, the address after the opcode byte (40_fetch_execute_and_addressing.md R92, R100). The opcode bytes in a statement are
those that the cited rule lists; that they are these is the spec's own choice, D10 (log 13). -/

open Sys2Proof Sys2Proof.Machine

/-! ### Encoding -/

/-- Decoding the encoding of a well-formed instruction, whatever follows it, gives it back (30_encoding.md, formats and table; the
opcode bytes are the spec's own choice, D10, log 13). -/
def Obligations.DecodeOfEncodeIsTheInstruction : Prop :=
  ∀ (i : Instr) (rest : List Byte), i.WellFormed → decode (encode i ++ rest) = .ok (i, rest)

/-- What the decoder accepts is well formed and is what the encoder writes: no two byte sequences mean one instruction (30_encoding.md
R65, R66, R70). -/
def Obligations.EncodeOfDecodedIsTheBytes : Prop :=
  ∀ (bs : List Byte) (i : Instr) (rest : List Byte), decode bs = .ok (i, rest) → i.WellFormed ∧ encode i ++ rest = bs

/-- The table is total: every opcode byte decodes, to its descriptor's kind and length; 105 bytes are ILLEGAL, those of the list, and
no two documented bytes share kind and mode (30_encoding.md R65, R70, R82; D10, D11, log 13). -/
def Obligations.OpcodeTableIsTotalAndUnambiguous : Prop :=
  (∀ op b1 b2 : Byte, ∃ i, decode [op, b1, b2] = .ok (i, [op, b1, b2].drop (descriptor op).length) ∧
    i.kind = (descriptor op).kind ∧ i.length = (descriptor op).length) ∧
  (opcodeTable.length = 256 ∧ (opcodeTable.filter fun d => d.kind == .illegal).length = 105 ∧ illegalBytes.length = 105) ∧
  (∀ op : Byte, (descriptor op).kind = .illegal ↔ op ∈ illegalBytes) ∧
  (∀ op op' : Byte, (descriptor op).kind = (descriptor op').kind → (descriptor op).mode = (descriptor op').mode →
    (descriptor op).kind = .illegal ∨ op = op')

/-- Words written out from 30_encoding.md R72 to R81: the six bytes the source attests, and one of each other kind of operand. -/
def Obligations.WordsOfTheSpecDecode : Prop :=
  decode [0xA9, 0xC0] = .ok (.lda (.immediate 0xC0), []) ∧ decode [0xAA] = .ok (.tax, []) ∧
  decode [0xE8] = .ok (.inx, []) ∧ decode [0x00] = .ok (.brk, []) ∧
  decode [0x85, 0x00] = .ok (.sta (.zeroPage 0x00), []) ∧ decode [0xA5, 0x00] = .ok (.lda (.zeroPage 0x00), []) ∧
  decode [0x0A] = .ok (.asl .accumulator, []) ∧ decode [0xB9, 0xFF, 0x12] = .ok (.lda (.absoluteY 0x12FF), []) ∧
  decode [0x6C, 0xFF, 0x30] = .ok (.jmp (.indirect 0x30FF), []) ∧ decode [0xD0, 0xF8] = .ok (.bne 0xF8, []) ∧
  decode [0x81, 0x40] = .ok (.sta (.indirectX 0x40), []) ∧ decode [0xB1, 0x20] = .ok (.lda (.indirectY 0x20), []) ∧
  decode [0x20, 0x0A, 0x06] = .ok (.jsr 0x060A, []) ∧ decode [0x02] = .ok (.illegal 0x02, [])

/-- The fetched instruction is encoded by the bytes at PC, PC + 1, PC + 2 that its length covers, addresses wrapping
(30_encoding.md R63, R65; 40_fetch_execute_and_addressing.md R91; the wrap is D7, log 16). -/
def Obligations.FetchedInstructionIsTheBytesAtPc : Prop :=
  ∀ s : State, encode (fetchInstr s) =
    (List.range (fetchInstr s).length).map fun k => s.mem.read (s.pc + BitVec.ofNat 16 k)

/-- The offset byte that the assembler writes for a target exists exactly when the target is 128 back to 127 forward of the byte
after the branch, modulo 65536, and leads there (30_encoding.md R84; 45_branches.md R134). -/
def Obligations.BranchOffsetReachesItsTarget : Prop :=
  ∀ a target : Word,
    ((∃ b, branchOffset a target = some b) ↔
      ∃ d : Int, -128 ≤ d ∧ d ≤ 127 ∧ target = BitVec.ofInt 16 (a.toNat + 2 + d)) ∧
    ∀ b, branchOffset a target = some b → target = BitVec.ofInt 16 (a.toNat + 2 + b.toInt)

/-! ### The step -/

/-- A step of a running core runs the instruction that the bytes at PC decode to, after the observer's call, with PC at the baseline
(40_fetch_execute_and_addressing.md R89 to R92). -/
def Obligations.StepRunsTheDecodedInstruction : Prop :=
  ∀ (s : State) (i : Instr) (rest : List Byte), s.run = .running →
    decode [(observe s).mem.read (observe s).pc, (observe s).mem.read ((observe s).pc + 1),
      (observe s).mem.read ((observe s).pc + 2)] = .ok (i, rest) →
    i.WellFormed ∧ step s = exec i { observe s with pc := (observe s).pc + 1 }

/-- Every step of a running core answers a next state; it halts exactly on BRK, faults exactly on an ILLEGAL byte, and otherwise goes
on running; it uses up one call of the observer and touches nothing of the host's (40_fetch_execute_and_addressing.md R87, R90, R98;
70_reset_and_hazards.md R194; the fault is the spec's own choice, D11, and the observer as a list of calls this model's, log 6). -/
def Obligations.RunningStepEndsAsItsOpcodeSays : Prop :=
  ∀ s : State, s.run = .running → ∃ t, step s = .next t ∧
    ((observe s).mem.read (observe s).pc = 0x00 → t.run = .halted) ∧
    ((observe s).mem.read (observe s).pc ∈ illegalBytes →
      t.run = .faulted (.illegalOpcode ((observe s).mem.read (observe s).pc) (observe s).pc)) ∧
    ((observe s).mem.read (observe s).pc ≠ 0x00 → (observe s).mem.read (observe s).pc ∉ illegalBytes → t.run = .running) ∧
    t.observer = s.observer.tail ∧ t.host = s.host ∧ t.reply = s.reply ∧ t.pcRule = s.pcRule

/-- An ILLEGAL byte faults precisely: PC is one past it, and everything else is as the observer left it
(40_fetch_execute_and_addressing.md R93; 60_exceptions.md R176; the fault is the spec's own choice, D11, log 10). -/
def Obligations.IllegalByteFaultsPrecisely : Prop :=
  ∀ s : State, s.run = .running → (observe s).mem.read (observe s).pc ∈ illegalBytes →
    step s = .next { observe s with
      pc := (observe s).pc + 1
      run := .faulted (.illegalOpcode ((observe s).mem.read (observe s).pc) (observe s).pc) }

/-- A fault is never left: no step of a faulted machine changes `run`, and with no host operation pending it answers the fault. A
halted machine is left only by `run` or `load_and_run` (60_exceptions.md R176, R188; D11, D22; the answer is this model's, log 9). -/
def Obligations.StoppedMachineIsLeftOnlyByRun : Prop :=
  (∀ (s : State) (r : Fault), s.run = .faulted r →
    (s.host = [] → step s = .fault r) ∧ ∀ t, step s = .next t → t.run = .faulted r) ∧
  (∀ s t : State, s.run = .halted → step s = .next t → t.run = .halted ∨
    (t.run = .running ∧ ∃ rest calls, s.host = .run calls :: rest ∨ ∃ prog, s.host = .loadAndRun prog calls :: rest))

/-- Every step keeps the invariant: memory in canonical form, and no recorded fault but of an ILLEGAL byte (60_exceptions.md R175;
the form of memory is this model's, log 3, and the fault the spec's own choice, D11, log 10). -/
def Obligations.StepKeepsTheInvariant : Prop :=
  ∀ s t : State, Inv s → step s = .next t → Inv t

/-- The state after reset meets the invariant (10_state.md R37; its empty memory is this model's choice, log 3). -/
def Obligations.ResetMeetsTheInvariant : Prop := Inv State.reset

/-! ### The host and the observer -/

/-- The reset operation: A, X, Y, S, P and PC as 70_reset_and_hazards.md R191 says, whatever they were. That memory and `run` stay is
the spec's own choice (D20, D22), and so are the layout of P and the place of the vector (D3, D5, log 14, log 15). -/
def Obligations.ResetSetsEveryRegister : Prop :=
  ∀ (s : State) (rest : List HostOp), s.run ≠ .running → s.host = .reset :: rest → ∃ t, step s = .next t ∧
    t.a = 0x00 ∧ t.x = 0x00 ∧ t.y = 0x00 ∧ t.sp = 0xFD ∧ t.p = 0x24 ∧
    t.pc.toNat = (s.mem.read 0xFFFC).toNat + 256 * (s.mem.read 0xFFFD).toNat ∧
    t.mem = s.mem ∧ t.run = s.run ∧ t.host = rest ∧ t.pcRule = s.pcRule ∧ t.observer = s.observer

/-- A program that fits is copied to 0x0600 on, then the vector bytes are written; no other byte, no register and not `run` changes
(70_reset_and_hazards.md R189; D5, D6, log 15). -/
def Obligations.LoadWritesTheProgramThenTheVector : Prop :=
  ∀ (s : State) (prog : List Byte) (rest : List HostOp), s.mem.wf = true → s.run ≠ .running →
    s.host = .load prog :: rest → prog.length ≤ 0xFA00 → ∃ t, step s = .next t ∧
    (∀ k (h : k < prog.length), 0x0600 + k ≠ 0xFFFC → 0x0600 + k ≠ 0xFFFD →
      t.mem.read (BitVec.ofNat 16 (0x0600 + k)) = prog[k]) ∧
    t.mem.read 0xFFFC = 0x00 ∧ t.mem.read 0xFFFD = 0x06 ∧
    (∀ a : Word, a.toNat < 0x0600 ∨ 0x0600 + prog.length ≤ a.toNat → a ≠ 0xFFFC → a ≠ 0xFFFD →
      t.mem.read a = s.mem.read a) ∧
    KeepsRegs [] s t ∧ t.p = s.p ∧ t.pc = s.pc ∧ t.run = s.run ∧ t.host = rest

/-- A program longer than 0xFA00 bytes is refused: the host is told, and nothing else changes (70_reset_and_hazards.md R190; D28; that
the host's queue loses the operation is this model's, log 8). -/
def Obligations.OverlongLoadIsRefused : Prop :=
  ∀ (s : State) (prog : List Byte) (rest : List HostOp), s.run ≠ .running → 0xFA00 < prog.length →
    (s.host = .load prog :: rest → step s = .next { s with host := rest, reply := .loadRefused prog.length }) ∧
    (∀ calls, s.host = .loadAndRun prog calls :: rest →
      step s = .next { s with host := rest, reply := .loadRefused prog.length })

/-- The standard launch: after `load_and_run` of a program that fits, the state at the first fetch (70_reset_and_hazards.md R193,
R196; D3 to D6, log 14, log 15). -/
def Obligations.LoadAndRunGivesTheStandardLaunch : Prop :=
  ∀ (s : State) (prog : List Byte) (calls : List ObserverCall) (rest : List HostOp), s.mem.wf = true → s.run = .halted →
    s.host = .loadAndRun prog calls :: rest → prog.length ≤ 0xFA00 → ∃ t, step s = .next t ∧
    t.a = 0x00 ∧ t.x = 0x00 ∧ t.y = 0x00 ∧ t.sp = 0xFD ∧ t.p = 0x24 ∧ t.pc = 0x0600 ∧ t.run = .running ∧
    (∀ k (h : k < prog.length), 0x0600 + k ≠ 0xFFFC → 0x0600 + k ≠ 0xFFFD →
      t.mem.read (BitVec.ofNat 16 (0x0600 + k)) = prog[k]) ∧
    t.mem.read 0xFFFC = 0x00 ∧ t.mem.read 0xFFFD = 0x06 ∧
    (∀ a : Word, a.toNat < 0x0600 ∨ 0x0600 + prog.length ≤ a.toNat → a ≠ 0xFFFC → a ≠ 0xFFFD →
      t.mem.read a = s.mem.read a) ∧
    t.observer = calls ∧ t.host = rest

/-- `run` sets Running and resets nothing; on a faulted machine it changes nothing (40_fetch_execute_and_addressing.md R88; the
spec's own choice, D22, and this model's queue, log 7). -/
def Obligations.RunResumesAtTheCurrentPc : Prop :=
  ∀ (s : State) (calls : List ObserverCall) (rest : List HostOp), s.host = .run calls :: rest →
    (s.run = .halted → step s = .next { s with host := rest, reply := .done, run := .running, observer := calls }) ∧
    (∀ r, s.run = .faulted r → step s = .next { s with host := rest, reply := .done })

/-- The memory access surface, used by the host while the core is stopped: a read tells the byte or the little-endian word, a write
changes the bytes it names, and no register changes (20_memory.md R42, R43; 70_reset_and_hazards.md R194; D7, D27). -/
def Obligations.HostAccessSurfaceReadsAndWrites : Prop :=
  ∀ (s : State) (a : Word) (rest : List HostOp), s.mem.wf = true → s.run ≠ .running →
    (s.host = .read8 a :: rest → step s = .next { s with host := rest, reply := .byte (s.mem.read a) }) ∧
    (s.host = .read16 a :: rest → ∃ w, step s = .next { s with host := rest, reply := .word w } ∧
      w.toNat = (s.mem.read a).toNat + 256 * (s.mem.read (a + 1)).toNat) ∧
    (∀ v, s.host = .write8 a v :: rest → ∃ t, step s = .next t ∧ t.mem.read a = v ∧ KeepsMem [a] s t ∧
      KeepsRegs [] s t ∧ t.p = s.p ∧ t.pc = s.pc ∧ t.run = s.run ∧ t.host = rest) ∧
    (∀ w, s.host = .write16 a w :: rest → ∃ t, step s = .next t ∧ (t.mem.read a).toNat = w.toNat % 256 ∧
      (t.mem.read (a + 1)).toNat = w.toNat / 256 ∧ KeepsMem [a, a + 1] s t ∧
      KeepsRegs [] s t ∧ t.p = s.p ∧ t.pc = s.pc ∧ t.run = s.run ∧ t.host = rest)

/-- An observer's call changes neither `run` nor the parameters nor anything of the host's, so it cannot stop the loop
(60_exceptions.md R184; D23). -/
def Obligations.ObserverCannotStopTheLoop : Prop :=
  ∀ (call : ObserverCall) (s : State), KeepsLoop s (applyCall call s)

/-- Giving the observer as lists of changes loses nothing: whatever function on states an observer is, if it leaves `run` and the
model's own fields alone, then what it does to a state is what some list of changes does (60_exceptions.md R183; log 6). -/
def Obligations.EveryObserverIsAListOfChanges : Prop :=
  ∀ (obs : State → State) (s : State), s.mem.wf = true → (obs s).mem.wf = true → KeepsLoop s (obs s) →
    ∃ call : ObserverCall, applyCall call s = obs s

/-! ### Memory, stack, flags -/

/-- A word is read and written little-endian, its second byte at the next address; at 0xFFFF that is 0x0000 (20_memory.md R43; the
wrap is the spec's own choice, D7, log 16). -/
def Obligations.WordAccessIsLittleEndian : Prop :=
  ∀ (m : Memory) (a w : Word), m.wf = true →
    (m.read16 a).toNat = (m.read a).toNat + 256 * (m.read (a + 1)).toNat ∧
    m.read16 0xFFFF = cat (m.read 0x0000) (m.read 0xFFFF) ∧
    ((m.write16 a w).read a).toNat = w.toNat % 256 ∧ ((m.write16 a w).read (a + 1)).toNat = w.toNat / 256 ∧
    ∀ b, b ≠ a → b ≠ a + 1 → (m.write16 a w).read b = m.read b

/-- Two memories in canonical form that read the same everywhere are equal (the model's own form of memory, log 3). -/
def Obligations.MemoryIsDeterminedByItsReads : Prop :=
  ∀ m m' : Memory, m.wf = true → m'.wf = true → (∀ a, m.read a = m'.read a) → m = m'

/-- A word pushed and popped comes back, with S restored, for every S; the two bytes lie in the stack page, and no other byte of
memory changes (20_memory.md R53 to R57; where the stack page lies is the spec's own choice, D4, log 15). -/
def Obligations.PushThenPopRestoresWordAndPointer : Prop :=
  ∀ (s : State) (w : Word), s.mem.wf = true →
    (pop16 (push16 w s)).1 = w ∧ (pop16 (push16 w s)).2.sp = s.sp ∧
    ((push16 w s).mem.read (stackCell s.sp.toNat)).toNat = w.toNat / 256 ∧
    ((push16 w s).mem.read (stackCell (s.sp.toNat + 255))).toNat = w.toNat % 256 ∧
    KeepsMem [stackCell s.sp.toNat, stackCell (s.sp.toNat + 255)] s (push16 w s) ∧
    ∀ sp : Byte, 0x0100 ≤ (stackAddress sp).toNat ∧ (stackAddress sp).toNat ≤ 0x01FF

/-- `SetZN(v)` sets Z iff v is 0 and N to bit 7 of v, and touches no other flag and nothing else (10_state.md R29). -/
def Obligations.SetZNTouchesOnlyZeroAndNegative : Prop :=
  ∀ (v : Byte) (s : State), ZNFrom v (setZN v s) ∧ KeepsFlags [.z, .n] s (setZN v s) ∧ { setZN v s with p := s.p } = s

/-- P is its eight flags at their bit positions (10_state.md R27; the positions are the spec's own choice, D3, log 14). -/
def Obligations.StatusByteIsItsFlags : Prop :=
  ∀ s : State, s.p.toNat =
    (s.flag .c).toNat + 2 * (s.flag .z).toNat + 4 * (s.flag .i).toNat + 8 * (s.flag .d).toNat +
    16 * (s.flag .b).toNat + 32 * (s.flag .b2).toNat + 64 * (s.flag .v).toNat + 128 * (s.flag .n).toNat

/-! ### Addressing -/

/-- The effective address of the immediate, zero-page and absolute modes (40_fetch_execute_and_addressing.md R102 to R106; the wrap
of the absolute sums is the spec's own choice, D7, log 16). -/
def Obligations.DirectModesResolveAsStated : Prop :=
  ∀ (s : State) (z : Byte) (w : Word),
    effectiveAddress (.immediate z) s = some s.pc ∧ sourceByte (.immediate z) s = some z ∧
    effectiveAddress (.zeroPage z) s = some (BitVec.ofNat 16 z.toNat) ∧
    effectiveAddress (.zeroPageX z) s = some (BitVec.ofNat 16 ((z.toNat + s.x.toNat) % 256)) ∧
    effectiveAddress (.zeroPageY z) s = some (BitVec.ofNat 16 ((z.toNat + s.y.toNat) % 256)) ∧
    effectiveAddress (.absolute w) s = some w ∧
    effectiveAddress (.absoluteX w) s = some (BitVec.ofNat 16 (w.toNat + s.x.toNat)) ∧
    effectiveAddress (.absoluteY w) s = some (BitVec.ofNat 16 (w.toNat + s.y.toNat)) ∧
    effectiveAddress .accumulator s = none ∧ effectiveAddress (.indirect w) s = none ∧
    ∀ o ea, o.mode ≠ .immediate → effectiveAddress o s = some ea → sourceByte o s = some (s.mem.read ea)

/-- The effective address of Indirect_X and Indirect_Y: a pointer read from page 0, both bytes, low byte first
(40_fetch_execute_and_addressing.md R107, R108; that the second byte stays in page 0 is the spec's own choice, D8, log 16). -/
def Obligations.IndirectModesReadTheirPointerInPageZero : Prop :=
  ∀ (s : State) (z : Byte),
    effectiveAddress (.indirectX z) s = some (BitVec.ofNat 16
      ((s.mem.read (BitVec.ofNat 16 ((z.toNat + s.x.toNat) % 256))).toNat +
        256 * (s.mem.read (BitVec.ofNat 16 ((z.toNat + s.x.toNat + 1) % 256))).toNat)) ∧
    effectiveAddress (.indirectY z) s = some (BitVec.ofNat 16
      ((s.mem.read (BitVec.ofNat 16 z.toNat)).toNat + 256 * (s.mem.read (BitVec.ofNat 16 ((z.toNat + 1) % 256))).toNat +
        s.y.toNat))

/-! ### Loads and stores -/

/-- LDA, LDX, LDY: the register takes the source byte, Z and N follow it, nothing else changes; and their opcode bytes
(41_load_store.md R112 to R114; the opcode bytes are the spec's own choice, D10, log 13). -/
def Obligations.LoadsTakeTheSourceByte : Prop :=
  (HasOpcodes .lda [(0xA9, .immediate), (0xA5, .zeroPage), (0xB5, .zeroPageX), (0xAD, .absolute), (0xBD, .absoluteX),
      (0xB9, .absoluteY), (0xA1, .indirectX), (0xB1, .indirectY)] ∧
    HasOpcodes .ldx [(0xA2, .immediate), (0xA6, .zeroPage), (0xB6, .zeroPageY), (0xAE, .absolute), (0xBE, .absoluteY)] ∧
    HasOpcodes .ldy [(0xA0, .immediate), (0xA4, .zeroPage), (0xB4, .zeroPageX), (0xAC, .absolute), (0xBC, .absoluteX)]) ∧
  ∀ (o : Operand) (s : State),
    ((Instr.lda o).WellFormed → ∃ v t, sourceByte o s = some v ∧ exec (.lda o) s = .next t ∧
      t.a = v ∧ ZNFrom v t ∧ OnlyChanges [.a] [.z, .n] o.length s t) ∧
    ((Instr.ldx o).WellFormed → ∃ v t, sourceByte o s = some v ∧ exec (.ldx o) s = .next t ∧
      t.x = v ∧ ZNFrom v t ∧ OnlyChanges [.x] [.z, .n] o.length s t) ∧
    ((Instr.ldy o).WellFormed → ∃ v t, sourceByte o s = some v ∧ exec (.ldy o) s = .next t ∧
      t.y = v ∧ ZNFrom v t ∧ OnlyChanges [.y] [.z, .n] o.length s t)

/-- STA, STX, STY: the register's byte is at the effective address afterwards, every other byte, every register and every flag is as
before; and their opcode bytes (41_load_store.md R115 to R117; the opcode bytes are the spec's own choice, D10, log 13). -/
def Obligations.StoresWriteOneByte : Prop :=
  (HasOpcodes .sta [(0x85, .zeroPage), (0x95, .zeroPageX), (0x8D, .absolute), (0x9D, .absoluteX), (0x99, .absoluteY),
      (0x81, .indirectX), (0x91, .indirectY)] ∧
    HasOpcodes .stx [(0x86, .zeroPage), (0x96, .zeroPageY), (0x8E, .absolute)] ∧
    HasOpcodes .sty [(0x84, .zeroPage), (0x94, .zeroPageX), (0x8C, .absolute)]) ∧
  ∀ (o : Operand) (s : State), s.mem.wf = true →
    ((Instr.sta o).WellFormed → ∃ ea t, effectiveAddress o s = some ea ∧ exec (.sta o) s = .next t ∧
      t.mem.read ea = s.a ∧ KeepsMem [ea] s t ∧ KeepsRegs [] s t ∧ KeepsFlags [] s t ∧ KeepsLoop s t ∧ Advanced o.length s t) ∧
    ((Instr.stx o).WellFormed → ∃ ea t, effectiveAddress o s = some ea ∧ exec (.stx o) s = .next t ∧
      t.mem.read ea = s.x ∧ KeepsMem [ea] s t ∧ KeepsRegs [] s t ∧ KeepsFlags [] s t ∧ KeepsLoop s t ∧ Advanced o.length s t) ∧
    ((Instr.sty o).WellFormed → ∃ ea t, effectiveAddress o s = some ea ∧ exec (.sty o) s = .next t ∧
      t.mem.read ea = s.y ∧ KeepsMem [ea] s t ∧ KeepsRegs [] s t ∧ KeepsFlags [] s t ∧ KeepsLoop s t ∧ Advanced o.length s t)

/-! ### Arithmetic and logic -/

/-- ADC: A is the sum of A, the source byte and C modulo 256; C is the carry out of 8 bits, V the signed overflow, Z and N follow
the result, whatever D is; and its opcode bytes (42_arithmetic_logical.md R118, R119; the opcode bytes are the spec's own choice,
D10, log 13). -/
def Obligations.AdcAddsWithCarry : Prop :=
  HasOpcodes .adc [(0x69, .immediate), (0x65, .zeroPage), (0x75, .zeroPageX), (0x6D, .absolute), (0x7D, .absoluteX),
    (0x79, .absoluteY), (0x61, .indirectX), (0x71, .indirectY)] ∧
  ∀ (o : Operand) (s : State), (Instr.adc o).WellFormed → ∃ m t, sourceByte o s = some m ∧ exec (.adc o) s = .next t ∧
    t.a.toNat = (s.a.toNat + m.toNat + s.carry) % 256 ∧
    (t.flag .c = true ↔ 255 < s.a.toNat + m.toNat + s.carry) ∧
    (t.flag .v = true ↔ s.a.msb = m.msb ∧ t.a.msb ≠ s.a.msb) ∧
    (t.flag .v = true ↔ s.a.toInt + m.toInt + s.carry < -128 ∨ 127 < s.a.toInt + m.toInt + s.carry) ∧
    ZNFrom t.a t ∧ OnlyChanges [.a] [.c, .z, .v, .n] o.length s t

/-- SBC: A is A - m - (1 - C) modulo 256; C is 1 exactly when no borrow occurred, V the signed overflow of the difference, Z and N
follow the result (42_arithmetic_logical.md R120; the reading of the source's formula is the spec's own choice, D13, log 18; the
opcode bytes are the spec's own choice, D10, log 13). -/
def Obligations.SbcSubtractsWithBorrow : Prop :=
  HasOpcodes .sbc [(0xE9, .immediate), (0xE5, .zeroPage), (0xF5, .zeroPageX), (0xED, .absolute), (0xFD, .absoluteX),
    (0xF9, .absoluteY), (0xE1, .indirectX), (0xF1, .indirectY)] ∧
  ∀ (o : Operand) (s : State), (Instr.sbc o).WellFormed → ∃ m t, sourceByte o s = some m ∧ exec (.sbc o) s = .next t ∧
    (t.a.toNat : Int) = ((s.a.toNat : Int) - m.toNat - (1 - s.carry)) % 256 ∧
    (t.flag .c = true ↔ (m.toNat : Int) + (1 - s.carry) ≤ s.a.toNat) ∧
    (t.flag .v = true ↔ s.a.toInt - m.toInt - (1 - s.carry) < -128 ∨ 127 < s.a.toInt - m.toInt - (1 - s.carry)) ∧
    ZNFrom t.a t ∧ OnlyChanges [.a] [.c, .z, .v, .n] o.length s t

/-- AND, ORA, EOR: A is the bitwise result, Z and N follow it, C and V stay; and their opcode bytes (42_arithmetic_logical.md R121
to R123; the opcode bytes are the spec's own choice, D10, log 13). -/
def Obligations.LogicalInstructionsCombineIntoA : Prop :=
  (HasOpcodes .and [(0x29, .immediate), (0x25, .zeroPage), (0x35, .zeroPageX), (0x2D, .absolute), (0x3D, .absoluteX),
      (0x39, .absoluteY), (0x21, .indirectX), (0x31, .indirectY)] ∧
    HasOpcodes .ora [(0x09, .immediate), (0x05, .zeroPage), (0x15, .zeroPageX), (0x0D, .absolute), (0x1D, .absoluteX),
      (0x19, .absoluteY), (0x01, .indirectX), (0x11, .indirectY)] ∧
    HasOpcodes .eor [(0x49, .immediate), (0x45, .zeroPage), (0x55, .zeroPageX), (0x4D, .absolute), (0x5D, .absoluteX),
      (0x59, .absoluteY), (0x41, .indirectX), (0x51, .indirectY)]) ∧
  ∀ (o : Operand) (s : State),
    ((Instr.and o).WellFormed → ∃ m t, sourceByte o s = some m ∧ exec (.and o) s = .next t ∧
      (∀ k < 8, t.a.getLsbD k = (s.a.getLsbD k && m.getLsbD k)) ∧ ZNFrom t.a t ∧ OnlyChanges [.a] [.z, .n] o.length s t) ∧
    ((Instr.ora o).WellFormed → ∃ m t, sourceByte o s = some m ∧ exec (.ora o) s = .next t ∧
      (∀ k < 8, t.a.getLsbD k = (s.a.getLsbD k || m.getLsbD k)) ∧ ZNFrom t.a t ∧ OnlyChanges [.a] [.z, .n] o.length s t) ∧
    ((Instr.eor o).WellFormed → ∃ m t, sourceByte o s = some m ∧ exec (.eor o) s = .next t ∧
      (∀ k < 8, t.a.getLsbD k = (s.a.getLsbD k ^^ m.getLsbD k)) ∧ ZNFrom t.a t ∧ OnlyChanges [.a] [.z, .n] o.length s t)

/-! ### Shifts and rotates -/

/-- ASL and ROL, accumulator and memory forms: the operand moves up one bit, once; ROL takes the previous C into bit 0; C takes bit
7; and their opcode bytes (43_shifts_rotates.md R126, R128; that the memory form shifts once is D15, log 18; the opcode bytes are
the spec's own choice, D10, log 13). -/
def Obligations.LeftShiftsMoveUpOneBit : Prop :=
  (HasOpcodes .asl [(0x0A, .accumulator), (0x06, .zeroPage), (0x16, .zeroPageX), (0x0E, .absolute), (0x1E, .absoluteX)] ∧
    HasOpcodes .rol [(0x2A, .accumulator), (0x26, .zeroPage), (0x36, .zeroPageX), (0x2E, .absolute), (0x3E, .absoluteX)]) ∧
  ∀ (o : Operand) (s : State), s.mem.wf = true →
    ((Instr.asl o).WellFormed → ∃ v r t, operandByte o s = some v ∧ exec (.asl o) s = .next t ∧
      WroteBack o r s t ∧ r.toNat = v.toNat * 2 % 256 ∧ (t.flag .c = true ↔ 128 ≤ v.toNat) ∧ ZNFrom r t ∧
      KeepsFlags [.c, .z, .n] s t ∧ KeepsLoop s t ∧ Advanced o.length s t) ∧
    ((Instr.rol o).WellFormed → ∃ v r t, operandByte o s = some v ∧ exec (.rol o) s = .next t ∧
      WroteBack o r s t ∧ r.toNat = (v.toNat * 2 + s.carry) % 256 ∧ (t.flag .c = true ↔ 128 ≤ v.toNat) ∧ ZNFrom r t ∧
      KeepsFlags [.c, .z, .n] s t ∧ KeepsLoop s t ∧ Advanced o.length s t)

/-- LSR and ROR, accumulator and memory forms: the operand moves down one bit; ROR takes the previous C into bit 7; C takes bit 0;
and their opcode bytes (43_shifts_rotates.md R127, R129; the opcode bytes are the spec's own choice, D10, log 13). -/
def Obligations.RightShiftsMoveDownOneBit : Prop :=
  (HasOpcodes .lsr [(0x4A, .accumulator), (0x46, .zeroPage), (0x56, .zeroPageX), (0x4E, .absolute), (0x5E, .absoluteX)] ∧
    HasOpcodes .ror [(0x6A, .accumulator), (0x66, .zeroPage), (0x76, .zeroPageX), (0x6E, .absolute), (0x7E, .absoluteX)]) ∧
  ∀ (o : Operand) (s : State), s.mem.wf = true →
    ((Instr.lsr o).WellFormed → ∃ v r t, operandByte o s = some v ∧ exec (.lsr o) s = .next t ∧
      WroteBack o r s t ∧ r.toNat = v.toNat / 2 ∧ (t.flag .c = true ↔ v.toNat % 2 = 1) ∧ ZNFrom r t ∧ t.flag .n = false ∧
      KeepsFlags [.c, .z, .n] s t ∧ KeepsLoop s t ∧ Advanced o.length s t) ∧
    ((Instr.ror o).WellFormed → ∃ v r t, operandByte o s = some v ∧ exec (.ror o) s = .next t ∧
      WroteBack o r s t ∧ r.toNat = v.toNat / 2 + 128 * s.carry ∧ (t.flag .c = true ↔ v.toNat % 2 = 1) ∧ ZNFrom r t ∧
      t.flag .n = s.flag .c ∧
      KeepsFlags [.c, .z, .n] s t ∧ KeepsLoop s t ∧ Advanced o.length s t)

/-! ### Compare, BIT -/

/-- CMP, CPX, CPY: C is register >= operand, unsigned; Z and N come from the wrapped difference; no register changes; and their
opcode bytes (44_compare.md R130 to R133; the opcode bytes are the spec's own choice, D10, log 13). -/
def Obligations.ComparesSetFlagsOnly : Prop :=
  (HasOpcodes .cmp [(0xC9, .immediate), (0xC5, .zeroPage), (0xD5, .zeroPageX), (0xCD, .absolute), (0xDD, .absoluteX),
      (0xD9, .absoluteY), (0xC1, .indirectX), (0xD1, .indirectY)] ∧
    HasOpcodes .cpx [(0xE0, .immediate), (0xE4, .zeroPage), (0xEC, .absolute)] ∧
    HasOpcodes .cpy [(0xC0, .immediate), (0xC4, .zeroPage), (0xCC, .absolute)]) ∧
  ∀ (o : Operand) (s : State),
    ((Instr.cmp o).WellFormed → ∃ m t, sourceByte o s = some m ∧ exec (.cmp o) s = .next t ∧
      (t.flag .c = true ↔ m.toNat ≤ s.a.toNat) ∧ (t.flag .z = true ↔ s.a = m) ∧
      (t.flag .n = true ↔ 128 ≤ (s.a.toNat + 256 - m.toNat) % 256) ∧ OnlyChanges [] [.c, .z, .n] o.length s t) ∧
    ((Instr.cpx o).WellFormed → ∃ m t, sourceByte o s = some m ∧ exec (.cpx o) s = .next t ∧
      (t.flag .c = true ↔ m.toNat ≤ s.x.toNat) ∧ (t.flag .z = true ↔ s.x = m) ∧
      (t.flag .n = true ↔ 128 ≤ (s.x.toNat + 256 - m.toNat) % 256) ∧ OnlyChanges [] [.c, .z, .n] o.length s t) ∧
    ((Instr.cpy o).WellFormed → ∃ m t, sourceByte o s = some m ∧ exec (.cpy o) s = .next t ∧
      (t.flag .c = true ↔ m.toNat ≤ s.y.toNat) ∧ (t.flag .z = true ↔ s.y = m) ∧
      (t.flag .n = true ↔ 128 ≤ (s.y.toNat + 256 - m.toNat) % 256) ∧ OnlyChanges [] [.c, .z, .n] o.length s t)

/-- BIT: Z is set when A and the operand have no bit in common, N and V are the operand's bits 7 and 6; A and C stay; and its opcode
bytes (49_flags_bit_nop_brk.md R172; the opcode bytes are the spec's own choice, D10, log 13). -/
def Obligations.BitTestsTheOperand : Prop :=
  HasOpcodes .bit [(0x24, .zeroPage), (0x2C, .absolute)] ∧
  ∀ (o : Operand) (s : State), (Instr.bit o).WellFormed → ∃ m t, sourceByte o s = some m ∧ exec (.bit o) s = .next t ∧
    (t.flag .z = true ↔ ∀ k < 8, ¬ (s.a.getLsbD k = true ∧ m.getLsbD k = true)) ∧
    t.flag .n = m.getLsbD 7 ∧ t.flag .v = m.getLsbD 6 ∧ OnlyChanges [] [.z, .n, .v] o.length s t

/-! ### Branches, jumps, calls, returns -/

/-- The eight branches: taken on their flag, PC is the offset byte's address plus the signed offset plus 1; not taken, PC goes past
the offset byte; nothing else changes; and their opcode bytes (45_branches.md R134, R136 to R143; the wrap is D7, log 16, and what
BY_COMPARE does D12, log 5; the opcode bytes are the spec's own choice, D10, log 13). -/
def Obligations.BranchesFollowTheirFlag : Prop :=
  (HasOpcodes .bcc [(0x90, .relative)] ∧ HasOpcodes .bcs [(0xB0, .relative)] ∧ HasOpcodes .beq [(0xF0, .relative)] ∧
    HasOpcodes .bmi [(0x30, .relative)] ∧ HasOpcodes .bne [(0xD0, .relative)] ∧ HasOpcodes .bpl [(0x10, .relative)] ∧
    HasOpcodes .bvc [(0x50, .relative)] ∧ HasOpcodes .bvs [(0x70, .relative)]) ∧
  ∀ (off : Byte) (s : State),
    (∃ t, exec (.bcc off) s = .next t ∧ Branched (!s.flag .c) off s t) ∧
    (∃ t, exec (.bcs off) s = .next t ∧ Branched (s.flag .c) off s t) ∧
    (∃ t, exec (.beq off) s = .next t ∧ Branched (s.flag .z) off s t) ∧
    (∃ t, exec (.bmi off) s = .next t ∧ Branched (s.flag .n) off s t) ∧
    (∃ t, exec (.bne off) s = .next t ∧ Branched (!s.flag .z) off s t) ∧
    (∃ t, exec (.bpl off) s = .next t ∧ Branched (!s.flag .n) off s t) ∧
    (∃ t, exec (.bvc off) s = .next t ∧ Branched (!s.flag .v) off s t) ∧
    (∃ t, exec (.bvs off) s = .next t ∧ Branched (s.flag .v) off s t)

/-- JMP: absolute, PC is the operand word; indirect, PC is the word that the pointer names, the high byte fetched from the same page
as the low byte; nothing else changes; and its opcode bytes (46_jumps_calls_returns.md R144, R145; what BY_COMPARE does is D12, log
5; the opcode bytes are the spec's own choice, D10, log 13). -/
def Obligations.JmpSetsPc : Prop :=
  HasOpcodes .jmp [(0x4C, .absolute), (0x6C, .indirect)] ∧
  ∀ (w : Word) (s : State),
    (∃ t, exec (.jmp (.absolute w)) s = .next t ∧ WentTo w 3 s t ∧
      KeepsRegs [] s t ∧ KeepsFlags [] s t ∧ KeepsMem [] s t ∧ KeepsLoop s t) ∧
    (∃ t target, exec (.jmp (.indirect w)) s = .next t ∧ WentTo target 3 s t ∧
      target.toNat = (s.mem.read w).toNat +
        256 * (s.mem.read (BitVec.ofNat 16 (w.toNat / 256 * 256 + (w.toNat % 256 + 1) % 256))).toNat ∧
      KeepsRegs [] s t ∧ KeepsFlags [] s t ∧ KeepsMem [] s t ∧ KeepsLoop s t)

/-- JSR: pushes the address of its own last byte, high byte first, and sets PC; and its opcode byte (46_jumps_calls_returns.md R146;
the spec's own choices are the stack page, D4, log 15, and what BY_COMPARE does, D12, log 5; the opcode bytes are the spec's own
choice, D10, log 13). -/
def Obligations.JsrPushesTheReturnAddress : Prop :=
  HasOpcodes .jsr [(0x20, .absolute)] ∧
  ∀ (w : Word) (s : State), s.mem.wf = true → ∃ t, exec (.jsr w) s = .next t ∧ WentTo w 3 s t ∧
    (t.mem.read (stackCell s.sp.toNat)).toNat = (s.pc.toNat + 1) % 65536 / 256 ∧
    (t.mem.read (stackCell (s.sp.toNat + 255))).toNat = (s.pc.toNat + 1) % 256 ∧
    KeepsMem [stackCell s.sp.toNat, stackCell (s.sp.toNat + 255)] s t ∧
    t.sp = s.sp - 2 ∧ KeepsRegs [.sp] s t ∧ KeepsFlags [] s t ∧ KeepsLoop s t

/-- RTS: pops a word, low byte first, and sets PC to it plus 1; and its opcode byte (46_jumps_calls_returns.md R147; where the stack
page lies is the spec's own choice, D4, log 15; the opcode bytes are the spec's own choice, D10, log 13). -/
def Obligations.RtsReturnsToThePoppedWordPlusOne : Prop :=
  HasOpcodes .rts [(0x60, .implied)] ∧
  ∀ s : State, ∃ t, exec .rts s = .next t ∧
    t.pc = BitVec.ofNat 16 ((s.mem.read (stackCell (s.sp.toNat + 1))).toNat +
      256 * (s.mem.read (stackCell (s.sp.toNat + 2))).toNat + 1) ∧
    t.sp = s.sp + 2 ∧ KeepsRegs [.sp] s t ∧ KeepsFlags [] s t ∧ KeepsMem [] s t ∧ KeepsLoop s t

/-- RTI: pops P and then PC; B is 0 and B2 is 1 whatever was popped; nothing is added to the popped word; and its opcode byte
(46_jumps_calls_returns.md R148; that nothing is added and where the stack page lies are the spec's own choices, D19, log 19, D4,
log 15; the opcode bytes are the spec's own choice, D10, log 13). -/
def Obligations.RtiRestoresStatusAndPc : Prop :=
  HasOpcodes .rti [(0x40, .implied)] ∧
  ∀ s : State, ∃ t, exec .rti s = .next t ∧
    (∀ f, f ≠ .b → f ≠ .b2 → t.flag f = (s.mem.read (stackCell (s.sp.toNat + 1))).getLsbD f.bit) ∧
    t.flag .b = false ∧ t.flag .b2 = true ∧
    t.pc.toNat = (s.mem.read (stackCell (s.sp.toNat + 2))).toNat + 256 * (s.mem.read (stackCell (s.sp.toNat + 3))).toNat ∧
    t.sp = s.sp + 3 ∧ KeepsRegs [.sp] s t ∧ KeepsMem [] s t ∧ KeepsLoop s t

/-- A subroutine that leaves S and the two stacked bytes alone returns to the instruction after its JSR: if JSR answers `t`, then
RTS run in any state with `t`'s S and `t`'s stacked bytes sets PC to the byte after the JSR's three (46_jumps_calls_returns.md R146,
R147; the stack page is D4, log 15). -/
def Obligations.RtsUndoesJsr : Prop :=
  ∀ (w : Word) (s t u : State), s.mem.wf = true → exec (.jsr w) s = .next t → u.sp = t.sp →
    u.mem.read (stackCell s.sp.toNat) = t.mem.read (stackCell s.sp.toNat) →
    u.mem.read (stackCell (s.sp.toNat + 255)) = t.mem.read (stackCell (s.sp.toNat + 255)) →
    ∃ v, exec .rts u = .next v ∧ v.pc = s.pc + 2 ∧ v.sp = s.sp

/-! ### Increments, transfers, stack instructions -/

/-- INC, DEC: the byte at the effective address goes up or down by 1 modulo 256, Z and N follow it, C and V, every register and
every other byte stay; and their opcode bytes (47_increments_decrements.md R149, R150; the opcode bytes are the spec's own choice,
D10, log 13). -/
def Obligations.IncAndDecModifyOneByte : Prop :=
  (HasOpcodes .inc [(0xE6, .zeroPage), (0xF6, .zeroPageX), (0xEE, .absolute), (0xFE, .absoluteX)] ∧
    HasOpcodes .dec [(0xC6, .zeroPage), (0xD6, .zeroPageX), (0xCE, .absolute), (0xDE, .absoluteX)]) ∧
  ∀ (o : Operand) (s : State), s.mem.wf = true →
    ((Instr.inc o).WellFormed → ∃ ea t, effectiveAddress o s = some ea ∧ exec (.inc o) s = .next t ∧
      (t.mem.read ea).toNat = ((s.mem.read ea).toNat + 1) % 256 ∧ KeepsMem [ea] s t ∧ ZNFrom (t.mem.read ea) t ∧
      KeepsFlags [.z, .n] s t ∧ KeepsRegs [] s t ∧ KeepsLoop s t ∧ Advanced o.length s t) ∧
    ((Instr.dec o).WellFormed → ∃ ea t, effectiveAddress o s = some ea ∧ exec (.dec o) s = .next t ∧
      (t.mem.read ea).toNat = ((s.mem.read ea).toNat + 255) % 256 ∧ KeepsMem [ea] s t ∧ ZNFrom (t.mem.read ea) t ∧
      KeepsFlags [.z, .n] s t ∧ KeepsRegs [] s t ∧ KeepsLoop s t ∧ Advanced o.length s t)

/-- INX, INY, DEX, DEY: the register goes up or down by 1 modulo 256, Z and N follow it, nothing else changes; and their opcode
bytes (47_increments_decrements.md R151 to R154; the opcode bytes are the spec's own choice, D10, log 13). -/
def Obligations.IndexRegistersCountModulo256 : Prop :=
  (HasOpcodes .inx [(0xE8, .implied)] ∧ HasOpcodes .iny [(0xC8, .implied)] ∧ HasOpcodes .dex [(0xCA, .implied)] ∧
    HasOpcodes .dey [(0x88, .implied)]) ∧
  ∀ s : State,
    (∃ t, exec .inx s = .next t ∧ t.x.toNat = (s.x.toNat + 1) % 256 ∧ ZNFrom t.x t ∧ OnlyChanges [.x] [.z, .n] 1 s t) ∧
    (∃ t, exec .iny s = .next t ∧ t.y.toNat = (s.y.toNat + 1) % 256 ∧ ZNFrom t.y t ∧ OnlyChanges [.y] [.z, .n] 1 s t) ∧
    (∃ t, exec .dex s = .next t ∧ t.x.toNat = (s.x.toNat + 255) % 256 ∧ ZNFrom t.x t ∧ OnlyChanges [.x] [.z, .n] 1 s t) ∧
    (∃ t, exec .dey s = .next t ∧ t.y.toNat = (s.y.toNat + 255) % 256 ∧ ZNFrom t.y t ∧ OnlyChanges [.y] [.z, .n] 1 s t)

/-- TAX, TAY, TSX, TXA, TYA: copy one register to another; Z and N follow the copied value; nothing else changes
(48_transfers_stack.md R155 to R158, R160; the opcode bytes are the spec's own choice, D10, log 13). -/
def Obligations.TransfersCopyAndSetZN : Prop :=
  (HasOpcodes .tax [(0xAA, .implied)] ∧ HasOpcodes .tay [(0xA8, .implied)] ∧ HasOpcodes .tsx [(0xBA, .implied)] ∧
    HasOpcodes .txa [(0x8A, .implied)] ∧ HasOpcodes .tya [(0x98, .implied)]) ∧
  ∀ s : State,
    (∃ t, exec .tax s = .next t ∧ t.x = s.a ∧ ZNFrom s.a t ∧ OnlyChanges [.x] [.z, .n] 1 s t) ∧
    (∃ t, exec .tay s = .next t ∧ t.y = s.a ∧ ZNFrom s.a t ∧ OnlyChanges [.y] [.z, .n] 1 s t) ∧
    (∃ t, exec .tsx s = .next t ∧ t.x = s.sp ∧ ZNFrom s.sp t ∧ OnlyChanges [.x] [.z, .n] 1 s t) ∧
    (∃ t, exec .txa s = .next t ∧ t.a = s.x ∧ ZNFrom s.x t ∧ OnlyChanges [.a] [.z, .n] 1 s t) ∧
    (∃ t, exec .tya s = .next t ∧ t.a = s.y ∧ ZNFrom s.y t ∧ OnlyChanges [.a] [.z, .n] 1 s t)

/-- TXS copies X to S and writes no flag (48_transfers_stack.md R159; that it writes none is the spec's own choice, D14, log 18; the
opcode bytes are the spec's own choice, D10, log 13). -/
def Obligations.TxsWritesNoFlag : Prop :=
  HasOpcodes .txs [(0x9A, .implied)] ∧ ∀ s : State, ∃ t, exec .txs s = .next t ∧ t.sp = s.x ∧ OnlyChanges [.sp] [] 1 s t

/-- PHA writes A at the stack cell that S names and lowers S by 1; no flag and no other byte changes (48_transfers_stack.md R161;
the stack page is D4, log 15; the opcode bytes are the spec's own choice, D10, log 13). -/
def Obligations.PhaPushesA : Prop :=
  HasOpcodes .pha [(0x48, .implied)] ∧
  ∀ s : State, s.mem.wf = true → ∃ t, exec .pha s = .next t ∧ t.mem.read (stackCell s.sp.toNat) = s.a ∧
    KeepsMem [stackCell s.sp.toNat] s t ∧ t.sp = s.sp - 1 ∧ KeepsRegs [.sp] s t ∧ KeepsFlags [] s t ∧ KeepsLoop s t ∧
    Advanced 1 s t

/-- PHP writes P with B and B2 set at the stack cell that S names and lowers S by 1; P itself stays (48_transfers_stack.md R162;
that B and B2 are pushed as 1 and where the stack page lies are the spec's own choices, D16, log 17, D4, log 15; the opcode bytes
are the spec's own choice, D10, log 13). -/
def Obligations.PhpPushesStatusWithBreakBitsSet : Prop :=
  HasOpcodes .php [(0x08, .implied)] ∧
  ∀ s : State, s.mem.wf = true → ∃ t, exec .php s = .next t ∧
    (∀ f, (t.mem.read (stackCell s.sp.toNat)).getLsbD f.bit = (s.flag f || f == .b || f == .b2)) ∧
    KeepsMem [stackCell s.sp.toNat] s t ∧ t.sp = s.sp - 1 ∧ KeepsRegs [.sp] s t ∧ KeepsFlags [] s t ∧ KeepsLoop s t ∧
    Advanced 1 s t

/-- PLA and PLP raise S by 1 and read the stack cell it then names: PLA into A with Z and N following, PLP into all of P, verbatim;
and their opcode bytes (48_transfers_stack.md R163, R164; the stack page is D4, log 15; the opcode bytes are the spec's own choice,
D10, log 13). -/
def Obligations.PullsReadTheStack : Prop :=
  (HasOpcodes .pla [(0x68, .implied)] ∧ HasOpcodes .plp [(0x28, .implied)]) ∧
  ∀ s : State,
    (∃ t, exec .pla s = .next t ∧ t.a = s.mem.read (stackCell (s.sp.toNat + 1)) ∧ ZNFrom t.a t ∧ t.sp = s.sp + 1 ∧
      OnlyChanges [.a, .sp] [.z, .n] 1 s t) ∧
    (∃ t, exec .plp s = .next t ∧ t.p = s.mem.read (stackCell (s.sp.toNat + 1)) ∧ t.sp = s.sp + 1 ∧
      KeepsRegs [.sp] s t ∧ KeepsMem [] s t ∧ KeepsLoop s t ∧ Advanced 1 s t)

/-! ### Flag instructions, NOP, and the two ends of the loop -/

/-- The seven flag instructions write one flag each, and NOP none; nothing else but PC changes; and their opcode bytes
(49_flags_bit_nop_brk.md R165 to R171, R173; the opcode bytes are the spec's own choice, D10, log 13). -/
def Obligations.FlagInstructionsWriteOneFlag : Prop :=
  (HasOpcodes .clc [(0x18, .implied)] ∧ HasOpcodes .cld [(0xD8, .implied)] ∧ HasOpcodes .cli [(0x58, .implied)] ∧
    HasOpcodes .clv [(0xB8, .implied)] ∧ HasOpcodes .sec [(0x38, .implied)] ∧ HasOpcodes .sed [(0xF8, .implied)] ∧
    HasOpcodes .sei [(0x78, .implied)] ∧ HasOpcodes .nop [(0xEA, .implied)]) ∧
  ∀ s : State,
    (∃ t, exec .clc s = .next t ∧ t.flag .c = false ∧ OnlyChanges [] [.c] 1 s t) ∧
    (∃ t, exec .cld s = .next t ∧ t.flag .d = false ∧ OnlyChanges [] [.d] 1 s t) ∧
    (∃ t, exec .cli s = .next t ∧ t.flag .i = false ∧ OnlyChanges [] [.i] 1 s t) ∧
    (∃ t, exec .clv s = .next t ∧ t.flag .v = false ∧ OnlyChanges [] [.v] 1 s t) ∧
    (∃ t, exec .sec s = .next t ∧ t.flag .c = true ∧ OnlyChanges [] [.c] 1 s t) ∧
    (∃ t, exec .sed s = .next t ∧ t.flag .d = true ∧ OnlyChanges [] [.d] 1 s t) ∧
    (∃ t, exec .sei s = .next t ∧ t.flag .i = true ∧ OnlyChanges [] [.i] 1 s t) ∧
    (∃ t, exec .nop s = .next t ∧ OnlyChanges [] [] 1 s t)

/-- BRK halts with PC one past it and changes nothing else; an ILLEGAL byte faults, with its own address recorded, PC one past it,
and changes nothing else (49_flags_bit_nop_brk.md R174; 40_fetch_execute_and_addressing.md R93; BRK's length and the fault are the
spec's own choices, D17, D11, log 10, log 20; the opcode bytes are the spec's own choice, D10, log 13). -/
def Obligations.BrkHaltsAndIllegalFaults : Prop :=
  HasOpcodes .brk [(0x00, .implied)] ∧
  ∀ (s : State) (op : Byte),
    exec .brk s = .next { s with run := .halted } ∧
    exec (.illegal op) s = .next { s with run := .faulted (.illegalOpcode op (s.pc - 1)) }

/-! ### Rules of the whole machine -/

/-- Each of A, X, Y and S is changed only by the kinds that 10_state.md R18 and R22 list, a shift changing A in its accumulator form
only. -/
def Obligations.RegistersHaveOnlyTheirWriters : Prop :=
  ∀ (i : Instr) (s t : State) (r : Reg), exec i s = .next t → t.reg r ≠ s.reg r →
    i.kind ∈ regWriters r ∨ (r = .a ∧ i.kind ∈ shiftKinds ∧ i.mode = .accumulator)

/-- Each flag is changed only by the kinds that 10_state.md R31 lists (its reading of the status instructions is D16, log 17). -/
def Obligations.FlagsHaveOnlyTheirWriters : Prop :=
  ∀ (i : Instr) (s t : State) (f : Flag), exec i s = .next t → t.flag f ≠ s.flag f → i.kind ∈ flagWriters f

/-- Memory is changed only by the stores, INC and DEC, the memory forms of the shifts, and the pushes (20_memory.md R46). -/
def Obligations.MemoryHasOnlyItsWriters : Prop :=
  ∀ (i : Instr) (s t : State) (a : Word), exec i s = .next t → t.mem.read a ≠ s.mem.read a →
    i.kind ∈ memWriters ∨ (i.kind ∈ shiftKinds ∧ i.mode ≠ .accumulator)

/-- Every instruction but the jumps, calls, returns and branches leaves PC past its operand bytes (40_fetch_execute_and_addressing.md
R95, R96; the rule is the spec's own reading, D12, log 5). -/
def Obligations.OnlyControlTransfersSetPc : Prop :=
  ∀ (i : Instr) (s t : State), i.WellFormed → i.kind ∉ pcWriters → exec i s = .next t → Advanced i.length s t

/-- The two PC-advance rules give the same step, but for an instruction that writes PC with the baseline: BY_COMPARE then goes on past
the operand bytes, BY_KIND at the baseline (40_fetch_execute_and_addressing.md R97; D12, log 5). -/
def Obligations.PcRulesDifferOnlyAtTheBaseline : Prop :=
  ∀ (i : Instr) (s : State), i.WellFormed → ∃ t u,
    exec i { s with pcRule := .byKind } = .next t ∧ exec i { s with pcRule := .byCompare } = .next u ∧
    { u with pcRule := .byKind, pc := t.pc } = t ∧
    (u.pc = t.pc ∨ (i.kind ∈ pcWriters ∧ t.pc = s.pc ∧ u.pc = s.pc + BitVec.ofNat 16 (i.length - 1)))

/-- No instruction but PHP consults D, I, B or B2: run from a state that differs in one of them, it gives a state that differs in that
flag at most (10_state.md R31, R32; D16, D18, log 17, log 20). -/
def Obligations.InertFlagsDoNotMatter : Prop :=
  ∀ (i : Instr) (s t : State) (f : Flag) (b : Bool), f = .d ∨ f = .i ∨ f = .b ∨ f = .b2 → i ≠ .php → exec i s = .next t →
    ∃ u, exec i (s.setFlag f b) = .next u ∧ u.setFlag f (t.flag f) = t

/-- No documented instruction but BRK ends the loop: each answers a next state, in every state, with `run` as it was
(60_exceptions.md R175, R178). -/
def Obligations.NoInstructionRaisesAnException : Prop :=
  ∀ (i : Instr) (s : State), i.WellFormed → i ≠ .brk → i.kind ≠ .illegal → ∃ t, exec i s = .next t ∧ KeepsLoop s t

/-! ### The flag operations that the instruction rules share -/

/-- `set_flag(f, b)` sets flag f to b, as `get_flag(f)` then tells, and leaves the other seven bits of P and everything else unchanged
(10_state.md R28). -/
def Obligations.SetFlagChangesOneBitOfP : Prop :=
  ∀ (f : Flag) (b : Bool) (s : State), (s.setFlag f b).flag f = b ∧ (∀ g, g ≠ f → (s.setFlag f b).flag g = s.flag g) ∧
    (∀ k, k ≠ f.bit → (s.setFlag f b).p.getLsbD k = s.p.getLsbD k) ∧ { s.setFlag f b with p := s.p } = s

/-- `Compare(reg, m)`: C is reg >= m, unsigned; Z and N come from the wrapped difference, N being its bit 7; V, I, D, B and B2, every
register and everything else stay (44_compare.md R130). -/
def Obligations.CompareDerivesCZNFromTheDifference : Prop :=
  ∀ (reg m : Byte) (s : State), ((compareFlags reg m s).flag .c = true ↔ m.toNat ≤ reg.toNat) ∧
    ((compareFlags reg m s).flag .z = true ↔ reg = m) ∧
    ((compareFlags reg m s).flag .n = true ↔ 128 ≤ (reg.toNat + 256 - m.toNat) % 256) ∧
    KeepsFlags [.c, .z, .n] s (compareFlags reg m s) ∧ { compareFlags reg m s with p := s.p } = s
end

