-- ==== Sys2Proof/Laws/State.lean ====
section
/-! SUPPORT. Laws/State.lean: what each update of State does to each field, one lemma a field; a later proof unfolds none of them. -/

namespace Sys2Proof.Machine

/-! ### State.setFlag -/

@[simp] theorem State.setFlag_a (s : State) (f : Flag) (v : Bool) : (s.setFlag f v).a = s.a := rfl
@[simp] theorem State.setFlag_x (s : State) (f : Flag) (v : Bool) : (s.setFlag f v).x = s.x := rfl
@[simp] theorem State.setFlag_y (s : State) (f : Flag) (v : Bool) : (s.setFlag f v).y = s.y := rfl
@[simp] theorem State.setFlag_sp (s : State) (f : Flag) (v : Bool) : (s.setFlag f v).sp = s.sp := rfl
@[simp] theorem State.setFlag_pc (s : State) (f : Flag) (v : Bool) : (s.setFlag f v).pc = s.pc := rfl
@[simp] theorem State.setFlag_p (s : State) (f : Flag) (v : Bool) : (s.setFlag f v).p = putFlag s.p f v := rfl
@[simp] theorem State.setFlag_mem (s : State) (f : Flag) (v : Bool) : (s.setFlag f v).mem = s.mem := rfl
@[simp] theorem State.setFlag_run (s : State) (f : Flag) (v : Bool) : (s.setFlag f v).run = s.run := rfl
@[simp] theorem State.setFlag_pcRule (s : State) (f : Flag) (v : Bool) : (s.setFlag f v).pcRule = s.pcRule := rfl
@[simp] theorem State.setFlag_observer (s : State) (f : Flag) (v : Bool) : (s.setFlag f v).observer = s.observer := rfl
@[simp] theorem State.setFlag_host (s : State) (f : Flag) (v : Bool) : (s.setFlag f v).host = s.host := rfl
@[simp] theorem State.setFlag_reply (s : State) (f : Flag) (v : Bool) : (s.setFlag f v).reply = s.reply := rfl

/-! ### setZN -/

@[simp] theorem setZN_a (v : Byte) (s : State) : (setZN v s).a = s.a := rfl
@[simp] theorem setZN_x (v : Byte) (s : State) : (setZN v s).x = s.x := rfl
@[simp] theorem setZN_y (v : Byte) (s : State) : (setZN v s).y = s.y := rfl
@[simp] theorem setZN_sp (v : Byte) (s : State) : (setZN v s).sp = s.sp := rfl
@[simp] theorem setZN_pc (v : Byte) (s : State) : (setZN v s).pc = s.pc := rfl
@[simp] theorem setZN_p (v : Byte) (s : State) : (setZN v s).p = putFlag (putFlag s.p .z (v == 0)) .n (v.getLsbD 7) := rfl
@[simp] theorem setZN_mem (v : Byte) (s : State) : (setZN v s).mem = s.mem := rfl
@[simp] theorem setZN_run (v : Byte) (s : State) : (setZN v s).run = s.run := rfl
@[simp] theorem setZN_pcRule (v : Byte) (s : State) : (setZN v s).pcRule = s.pcRule := rfl
@[simp] theorem setZN_observer (v : Byte) (s : State) : (setZN v s).observer = s.observer := rfl
@[simp] theorem setZN_host (v : Byte) (s : State) : (setZN v s).host = s.host := rfl
@[simp] theorem setZN_reply (v : Byte) (s : State) : (setZN v s).reply = s.reply := rfl

/-! ### compareFlags -/

@[simp] theorem compareFlags_a (r m : Byte) (s : State) : (compareFlags r m s).a = s.a := rfl
@[simp] theorem compareFlags_x (r m : Byte) (s : State) : (compareFlags r m s).x = s.x := rfl
@[simp] theorem compareFlags_y (r m : Byte) (s : State) : (compareFlags r m s).y = s.y := rfl
@[simp] theorem compareFlags_sp (r m : Byte) (s : State) : (compareFlags r m s).sp = s.sp := rfl
@[simp] theorem compareFlags_pc (r m : Byte) (s : State) : (compareFlags r m s).pc = s.pc := rfl
@[simp] theorem compareFlags_p (r m : Byte) (s : State) : (compareFlags r m s).p = putFlag (putFlag (putFlag s.p .c (decide (m.toNat ≤ r.toNat))) .z (r - m == 0)) .n ((r - m).getLsbD 7) := rfl
@[simp] theorem compareFlags_mem (r m : Byte) (s : State) : (compareFlags r m s).mem = s.mem := rfl
@[simp] theorem compareFlags_run (r m : Byte) (s : State) : (compareFlags r m s).run = s.run := rfl
@[simp] theorem compareFlags_pcRule (r m : Byte) (s : State) : (compareFlags r m s).pcRule = s.pcRule := rfl
@[simp] theorem compareFlags_observer (r m : Byte) (s : State) : (compareFlags r m s).observer = s.observer := rfl
@[simp] theorem compareFlags_host (r m : Byte) (s : State) : (compareFlags r m s).host = s.host := rfl
@[simp] theorem compareFlags_reply (r m : Byte) (s : State) : (compareFlags r m s).reply = s.reply := rfl

/-! ### bitFlags -/

@[simp] theorem bitFlags_a (m : Byte) (s : State) : (bitFlags m s).a = s.a := rfl
@[simp] theorem bitFlags_x (m : Byte) (s : State) : (bitFlags m s).x = s.x := rfl
@[simp] theorem bitFlags_y (m : Byte) (s : State) : (bitFlags m s).y = s.y := rfl
@[simp] theorem bitFlags_sp (m : Byte) (s : State) : (bitFlags m s).sp = s.sp := rfl
@[simp] theorem bitFlags_pc (m : Byte) (s : State) : (bitFlags m s).pc = s.pc := rfl
@[simp] theorem bitFlags_p (m : Byte) (s : State) : (bitFlags m s).p = putFlag (putFlag (putFlag s.p .z ((s.a &&& m) == 0)) .n (m.getLsbD 7)) .v (m.getLsbD 6) := rfl
@[simp] theorem bitFlags_mem (m : Byte) (s : State) : (bitFlags m s).mem = s.mem := rfl
@[simp] theorem bitFlags_run (m : Byte) (s : State) : (bitFlags m s).run = s.run := rfl
@[simp] theorem bitFlags_pcRule (m : Byte) (s : State) : (bitFlags m s).pcRule = s.pcRule := rfl
@[simp] theorem bitFlags_observer (m : Byte) (s : State) : (bitFlags m s).observer = s.observer := rfl
@[simp] theorem bitFlags_host (m : Byte) (s : State) : (bitFlags m s).host = s.host := rfl
@[simp] theorem bitFlags_reply (m : Byte) (s : State) : (bitFlags m s).reply = s.reply := rfl

/-! ### addToA -/

@[simp] theorem addToA_a (b : Byte) (s : State) : (addToA b s).a = (addC s.a b (s.flag .c)).1 := rfl
@[simp] theorem addToA_x (b : Byte) (s : State) : (addToA b s).x = s.x := rfl
@[simp] theorem addToA_y (b : Byte) (s : State) : (addToA b s).y = s.y := rfl
@[simp] theorem addToA_sp (b : Byte) (s : State) : (addToA b s).sp = s.sp := rfl
@[simp] theorem addToA_pc (b : Byte) (s : State) : (addToA b s).pc = s.pc := rfl
@[simp] theorem addToA_mem (b : Byte) (s : State) : (addToA b s).mem = s.mem := rfl
@[simp] theorem addToA_run (b : Byte) (s : State) : (addToA b s).run = s.run := rfl
@[simp] theorem addToA_pcRule (b : Byte) (s : State) : (addToA b s).pcRule = s.pcRule := rfl
@[simp] theorem addToA_observer (b : Byte) (s : State) : (addToA b s).observer = s.observer := rfl
@[simp] theorem addToA_host (b : Byte) (s : State) : (addToA b s).host = s.host := rfl
@[simp] theorem addToA_reply (b : Byte) (s : State) : (addToA b s).reply = s.reply := rfl

/-! ### writeByte -/

@[simp] theorem writeByte_a (ea : Word) (v : Byte) (s : State) : (writeByte ea v s).a = s.a := rfl
@[simp] theorem writeByte_x (ea : Word) (v : Byte) (s : State) : (writeByte ea v s).x = s.x := rfl
@[simp] theorem writeByte_y (ea : Word) (v : Byte) (s : State) : (writeByte ea v s).y = s.y := rfl
@[simp] theorem writeByte_sp (ea : Word) (v : Byte) (s : State) : (writeByte ea v s).sp = s.sp := rfl
@[simp] theorem writeByte_pc (ea : Word) (v : Byte) (s : State) : (writeByte ea v s).pc = s.pc := rfl
@[simp] theorem writeByte_p (ea : Word) (v : Byte) (s : State) : (writeByte ea v s).p = s.p := rfl
@[simp] theorem writeByte_mem (ea : Word) (v : Byte) (s : State) : (writeByte ea v s).mem = s.mem.write ea v := rfl
@[simp] theorem writeByte_run (ea : Word) (v : Byte) (s : State) : (writeByte ea v s).run = s.run := rfl
@[simp] theorem writeByte_pcRule (ea : Word) (v : Byte) (s : State) : (writeByte ea v s).pcRule = s.pcRule := rfl
@[simp] theorem writeByte_observer (ea : Word) (v : Byte) (s : State) : (writeByte ea v s).observer = s.observer := rfl
@[simp] theorem writeByte_host (ea : Word) (v : Byte) (s : State) : (writeByte ea v s).host = s.host := rfl
@[simp] theorem writeByte_reply (ea : Word) (v : Byte) (s : State) : (writeByte ea v s).reply = s.reply := rfl

/-! ### push8 -/

@[simp] theorem push8_a (v : Byte) (s : State) : (push8 v s).a = s.a := rfl
@[simp] theorem push8_x (v : Byte) (s : State) : (push8 v s).x = s.x := rfl
@[simp] theorem push8_y (v : Byte) (s : State) : (push8 v s).y = s.y := rfl
@[simp] theorem push8_sp (v : Byte) (s : State) : (push8 v s).sp = s.sp - 1 := rfl
@[simp] theorem push8_pc (v : Byte) (s : State) : (push8 v s).pc = s.pc := rfl
@[simp] theorem push8_p (v : Byte) (s : State) : (push8 v s).p = s.p := rfl
@[simp] theorem push8_mem (v : Byte) (s : State) : (push8 v s).mem = s.mem.write (stackAddress s.sp) v := rfl
@[simp] theorem push8_run (v : Byte) (s : State) : (push8 v s).run = s.run := rfl
@[simp] theorem push8_pcRule (v : Byte) (s : State) : (push8 v s).pcRule = s.pcRule := rfl
@[simp] theorem push8_observer (v : Byte) (s : State) : (push8 v s).observer = s.observer := rfl
@[simp] theorem push8_host (v : Byte) (s : State) : (push8 v s).host = s.host := rfl
@[simp] theorem push8_reply (v : Byte) (s : State) : (push8 v s).reply = s.reply := rfl

/-! ### push16 -/

@[simp] theorem push16_a (w : Word) (s : State) : (push16 w s).a = s.a := rfl
@[simp] theorem push16_x (w : Word) (s : State) : (push16 w s).x = s.x := rfl
@[simp] theorem push16_y (w : Word) (s : State) : (push16 w s).y = s.y := rfl
@[simp] theorem push16_sp (w : Word) (s : State) : (push16 w s).sp = s.sp - 1 - 1 := rfl
@[simp] theorem push16_pc (w : Word) (s : State) : (push16 w s).pc = s.pc := rfl
@[simp] theorem push16_p (w : Word) (s : State) : (push16 w s).p = s.p := rfl
@[simp] theorem push16_mem (w : Word) (s : State) : (push16 w s).mem = (s.mem.write (stackAddress s.sp) (hiByte w)).write (stackAddress (s.sp - 1)) (loByte w) := rfl
@[simp] theorem push16_run (w : Word) (s : State) : (push16 w s).run = s.run := rfl
@[simp] theorem push16_pcRule (w : Word) (s : State) : (push16 w s).pcRule = s.pcRule := rfl
@[simp] theorem push16_observer (w : Word) (s : State) : (push16 w s).observer = s.observer := rfl
@[simp] theorem push16_host (w : Word) (s : State) : (push16 w s).host = s.host := rfl
@[simp] theorem push16_reply (w : Word) (s : State) : (push16 w s).reply = s.reply := rfl

/-! ### advance -/

@[simp] theorem advance_a (n : Nat) (s : State) : (advance n s).a = s.a := rfl
@[simp] theorem advance_x (n : Nat) (s : State) : (advance n s).x = s.x := rfl
@[simp] theorem advance_y (n : Nat) (s : State) : (advance n s).y = s.y := rfl
@[simp] theorem advance_sp (n : Nat) (s : State) : (advance n s).sp = s.sp := rfl
@[simp] theorem advance_pc (n : Nat) (s : State) : (advance n s).pc = s.pc + BitVec.ofNat 16 (n - 1) := rfl
@[simp] theorem advance_p (n : Nat) (s : State) : (advance n s).p = s.p := rfl
@[simp] theorem advance_mem (n : Nat) (s : State) : (advance n s).mem = s.mem := rfl
@[simp] theorem advance_run (n : Nat) (s : State) : (advance n s).run = s.run := rfl
@[simp] theorem advance_pcRule (n : Nat) (s : State) : (advance n s).pcRule = s.pcRule := rfl
@[simp] theorem advance_observer (n : Nat) (s : State) : (advance n s).observer = s.observer := rfl
@[simp] theorem advance_host (n : Nat) (s : State) : (advance n s).host = s.host := rfl
@[simp] theorem advance_reply (n : Nat) (s : State) : (advance n s).reply = s.reply := rfl

/-! ### jump -/

@[simp] theorem jump_a (n : Nat) (w : Word) (s : State) : (jump n w s).a = s.a := rfl
@[simp] theorem jump_x (n : Nat) (w : Word) (s : State) : (jump n w s).x = s.x := rfl
@[simp] theorem jump_y (n : Nat) (w : Word) (s : State) : (jump n w s).y = s.y := rfl
@[simp] theorem jump_sp (n : Nat) (w : Word) (s : State) : (jump n w s).sp = s.sp := rfl
@[simp] theorem jump_pc (n : Nat) (w : Word) (s : State) : (jump n w s).pc = nextPc s.pcRule s.pc n (some w) := rfl
@[simp] theorem jump_p (n : Nat) (w : Word) (s : State) : (jump n w s).p = s.p := rfl
@[simp] theorem jump_mem (n : Nat) (w : Word) (s : State) : (jump n w s).mem = s.mem := rfl
@[simp] theorem jump_run (n : Nat) (w : Word) (s : State) : (jump n w s).run = s.run := rfl
@[simp] theorem jump_pcRule (n : Nat) (w : Word) (s : State) : (jump n w s).pcRule = s.pcRule := rfl
@[simp] theorem jump_observer (n : Nat) (w : Word) (s : State) : (jump n w s).observer = s.observer := rfl
@[simp] theorem jump_host (n : Nat) (w : Word) (s : State) : (jump n w s).host = s.host := rfl
@[simp] theorem jump_reply (n : Nat) (w : Word) (s : State) : (jump n w s).reply = s.reply := rfl

/-! ### raiseFault -/

@[simp] theorem raiseFault_a (r : Fault) (s : State) : (raiseFault r s).a = s.a := rfl
@[simp] theorem raiseFault_x (r : Fault) (s : State) : (raiseFault r s).x = s.x := rfl
@[simp] theorem raiseFault_y (r : Fault) (s : State) : (raiseFault r s).y = s.y := rfl
@[simp] theorem raiseFault_sp (r : Fault) (s : State) : (raiseFault r s).sp = s.sp := rfl
@[simp] theorem raiseFault_pc (r : Fault) (s : State) : (raiseFault r s).pc = s.pc := rfl
@[simp] theorem raiseFault_p (r : Fault) (s : State) : (raiseFault r s).p = s.p := rfl
@[simp] theorem raiseFault_mem (r : Fault) (s : State) : (raiseFault r s).mem = s.mem := rfl
@[simp] theorem raiseFault_run (r : Fault) (s : State) : (raiseFault r s).run = .faulted r := rfl
@[simp] theorem raiseFault_pcRule (r : Fault) (s : State) : (raiseFault r s).pcRule = s.pcRule := rfl
@[simp] theorem raiseFault_observer (r : Fault) (s : State) : (raiseFault r s).observer = s.observer := rfl
@[simp] theorem raiseFault_host (r : Fault) (s : State) : (raiseFault r s).host = s.host := rfl
@[simp] theorem raiseFault_reply (r : Fault) (s : State) : (raiseFault r s).reply = s.reply := rfl

/-! ### halt -/

@[simp] theorem halt_a (s : State) : (halt s).a = s.a := rfl
@[simp] theorem halt_x (s : State) : (halt s).x = s.x := rfl
@[simp] theorem halt_y (s : State) : (halt s).y = s.y := rfl
@[simp] theorem halt_sp (s : State) : (halt s).sp = s.sp := rfl
@[simp] theorem halt_pc (s : State) : (halt s).pc = s.pc := rfl
@[simp] theorem halt_p (s : State) : (halt s).p = s.p := rfl
@[simp] theorem halt_mem (s : State) : (halt s).mem = s.mem := rfl
@[simp] theorem halt_run (s : State) : (halt s).run = .halted := rfl
@[simp] theorem halt_pcRule (s : State) : (halt s).pcRule = s.pcRule := rfl
@[simp] theorem halt_observer (s : State) : (halt s).observer = s.observer := rfl
@[simp] theorem halt_host (s : State) : (halt s).host = s.host := rfl
@[simp] theorem halt_reply (s : State) : (halt s).reply = s.reply := rfl

/-! ### tell -/

@[simp] theorem tell_a (r : HostReply) (s : State) : (tell r s).a = s.a := rfl
@[simp] theorem tell_x (r : HostReply) (s : State) : (tell r s).x = s.x := rfl
@[simp] theorem tell_y (r : HostReply) (s : State) : (tell r s).y = s.y := rfl
@[simp] theorem tell_sp (r : HostReply) (s : State) : (tell r s).sp = s.sp := rfl
@[simp] theorem tell_pc (r : HostReply) (s : State) : (tell r s).pc = s.pc := rfl
@[simp] theorem tell_p (r : HostReply) (s : State) : (tell r s).p = s.p := rfl
@[simp] theorem tell_mem (r : HostReply) (s : State) : (tell r s).mem = s.mem := rfl
@[simp] theorem tell_run (r : HostReply) (s : State) : (tell r s).run = s.run := rfl
@[simp] theorem tell_pcRule (r : HostReply) (s : State) : (tell r s).pcRule = s.pcRule := rfl
@[simp] theorem tell_observer (r : HostReply) (s : State) : (tell r s).observer = s.observer := rfl
@[simp] theorem tell_host (r : HostReply) (s : State) : (tell r s).host = s.host := rfl
@[simp] theorem tell_reply (r : HostReply) (s : State) : (tell r s).reply = r := rfl

/-! ### loadProgram -/

@[simp] theorem loadProgram_a (prog : List Byte) (s : State) : (loadProgram prog s).a = s.a := rfl
@[simp] theorem loadProgram_x (prog : List Byte) (s : State) : (loadProgram prog s).x = s.x := rfl
@[simp] theorem loadProgram_y (prog : List Byte) (s : State) : (loadProgram prog s).y = s.y := rfl
@[simp] theorem loadProgram_sp (prog : List Byte) (s : State) : (loadProgram prog s).sp = s.sp := rfl
@[simp] theorem loadProgram_pc (prog : List Byte) (s : State) : (loadProgram prog s).pc = s.pc := rfl
@[simp] theorem loadProgram_p (prog : List Byte) (s : State) : (loadProgram prog s).p = s.p := rfl
@[simp] theorem loadProgram_mem (prog : List Byte) (s : State) : (loadProgram prog s).mem = (s.mem.writeBytes Config.loadOrigin prog).write16 Config.resetVector Config.loadOrigin := rfl
@[simp] theorem loadProgram_run (prog : List Byte) (s : State) : (loadProgram prog s).run = s.run := rfl
@[simp] theorem loadProgram_pcRule (prog : List Byte) (s : State) : (loadProgram prog s).pcRule = s.pcRule := rfl
@[simp] theorem loadProgram_observer (prog : List Byte) (s : State) : (loadProgram prog s).observer = s.observer := rfl
@[simp] theorem loadProgram_host (prog : List Byte) (s : State) : (loadProgram prog s).host = s.host := rfl
@[simp] theorem loadProgram_reply (prog : List Byte) (s : State) : (loadProgram prog s).reply = s.reply := rfl

/-! ### hostReset -/

@[simp] theorem hostReset_a (s : State) : (hostReset s).a = 0 := rfl
@[simp] theorem hostReset_x (s : State) : (hostReset s).x = 0 := rfl
@[simp] theorem hostReset_y (s : State) : (hostReset s).y = 0 := rfl
@[simp] theorem hostReset_sp (s : State) : (hostReset s).sp = 0xFD := rfl
@[simp] theorem hostReset_pc (s : State) : (hostReset s).pc = s.mem.read16 Config.resetVector := rfl
@[simp] theorem hostReset_p (s : State) : (hostReset s).p = 0x24 := rfl
@[simp] theorem hostReset_mem (s : State) : (hostReset s).mem = s.mem := rfl
@[simp] theorem hostReset_run (s : State) : (hostReset s).run = s.run := rfl
@[simp] theorem hostReset_pcRule (s : State) : (hostReset s).pcRule = s.pcRule := rfl
@[simp] theorem hostReset_observer (s : State) : (hostReset s).observer = s.observer := rfl
@[simp] theorem hostReset_host (s : State) : (hostReset s).host = s.host := rfl
@[simp] theorem hostReset_reply (s : State) : (hostReset s).reply = s.reply := rfl

/-! ### pop8, pop16 -/

@[simp] theorem pop8_fst (s : State) : (pop8 s).1 = s.mem.read (stackAddress (s.sp + 1)) := rfl
@[simp] theorem pop8_snd (s : State) : (pop8 s).2 = { s with sp := s.sp + 1 } := rfl
@[simp] theorem pop16_fst (s : State) :
    (pop16 s).1 = cat (s.mem.read (stackAddress (s.sp + 1 + 1))) (s.mem.read (stackAddress (s.sp + 1))) := rfl
@[simp] theorem pop16_snd (s : State) : (pop16 s).2 = { s with sp := s.sp + 1 + 1 } := rfl

end Sys2Proof.Machine
end

