-- ==== Sys2Proof/Laws/Decode.lean ====
section
/-! SUPPORT. Laws/Decode.lean: the byte helpers, and that the descriptor table (30_encoding.md R81), the mode lists of R72 to R80 and
the byte list of R82 say the same. -/

namespace Sys2Proof

/-! ### Byte helpers -/

theorem cat_toNat (hi lo : Byte) : (cat hi lo).toNat = hi.toNat * 256 + lo.toNat := by
  have := lo.isLt
  simp only [cat, BitVec.toNat_append, Nat.shiftLeft_eq]
  rw [Nat.mul_comm, ← Nat.two_pow_add_eq_or_of_lt (by simpa using this), Nat.mul_comm]

theorem loByte_toNat (w : Word) : (loByte w).toNat = w.toNat % 256 := by simp [loByte]

theorem hiByte_toNat (w : Word) : (hiByte w).toNat = w.toNat / 256 := by
  have := w.isLt
  simp only [hiByte, BitVec.toNat_setWidth, BitVec.toNat_ushiftRight, Nat.shiftRight_eq_div_pow]
  omega

theorem zext_toNat (b : Byte) : (zext b).toNat = b.toNat := by
  have := b.isLt
  simp only [zext, BitVec.toNat_setWidth]
  omega

@[simp] theorem loByte_cat (hi lo : Byte) : loByte (cat hi lo) = lo := by
  apply BitVec.eq_of_toNat_eq
  rw [loByte_toNat, cat_toNat]
  omega

@[simp] theorem hiByte_cat (hi lo : Byte) : hiByte (cat hi lo) = hi := by
  apply BitVec.eq_of_toNat_eq
  rw [hiByte_toNat, cat_toNat]
  omega

@[simp] theorem cat_hi_lo (w : Word) : cat (hiByte w) (loByte w) = w := by
  apply BitVec.eq_of_toNat_eq
  rw [cat_toNat, hiByte_toNat, loByte_toNat]
  omega

/-! ### The table -/

/-- The table has an entry for every byte (30_encoding.md R70). -/
theorem opcodeTable_length : opcodeTable.length = 256 := by decide +kernel

/-- Every entry's mode is one that R72 to R82 list for its kind, and its length is its format's. -/
theorem descriptor_mode (op : Byte) :
    (descriptor op).mode ∈ (descriptor op).kind.modes ∧ (descriptor op).length = (descriptor op).mode.length := by
  revert op
  decide +kernel

/-- The bytes of kind ILLEGAL are those of R82. -/
theorem descriptor_illegal (op : Byte) : (descriptor op).kind = .illegal ↔ op ∈ illegalBytes := by
  revert op
  decide +kernel

/-- The byte that the encoder finds is one that the decoder reads as that kind and mode. -/
theorem descriptor_opcodeOf {k : Kind} {m : Mode} {op : Byte} (h : opcodeOf k m = some op) :
    (descriptor op).kind = k ∧ (descriptor op).mode = m := by
  simp only [opcodeOf, Option.map_eq_some_iff] at h
  obtain ⟨n, hn, rfl⟩ := h
  obtain ⟨hlt, hp, -⟩ := List.findIdx?_eq_some_iff_getElem.mp hn
  have hn : (BitVec.ofNat 8 n).toNat = n := by
    rw [opcodeTable_length] at hlt
    simpa using hlt
  have hd : descriptor (BitVec.ofNat 8 n) = opcodeTable[n] := by
    rw [descriptor, hn, List.getD_eq_getElem?_getD, List.getElem?_eq_getElem hlt, Option.getD_some]
  simpa [hd] using hp

theorem modes_all_have_opcodes (k : Kind) : k.modes.all (fun m => (opcodeOf k m).isSome) = true := by
  cases k <;> decide +kernel

/-- Every mode that R72 to R80 list for a kind has an opcode byte. -/
theorem opcodeOf_isSome (k : Kind) (m : Mode) (h : m ∈ k.modes) : (opcodeOf k m).isSome = true :=
  List.all_eq_true.mp (modes_all_have_opcodes k) m h

/-! ### instrOf -/

@[simp] theorem instrOf_kind (op b1 b2 : Byte) : (instrOf op b1 b2).kind = (descriptor op).kind := by
  unfold instrOf
  generalize (descriptor op).kind = k
  cases k <;> rfl

theorem operandOf_mode (m : Mode) (b1 b2 : Byte) (h : m ≠ .implied ∧ m ≠ .relative) : (operandOf m b1 b2).mode = m := by
  cases m <;> simp_all [operandOf, Operand.mode]

@[simp] theorem instrOf_mode (op b1 b2 : Byte) : (instrOf op b1 b2).mode = (descriptor op).mode := by
  have h := (descriptor_mode op).1
  unfold instrOf
  generalize (descriptor op).kind = k at h
  have ho := operandOf_mode (descriptor op).mode b1 b2
  generalize (descriptor op).mode = m at h ho
  cases k
  all_goals first
    | exact (List.mem_singleton.mp h).symm
    | exact ho ⟨fun e => absurd (e ▸ h) (by decide), fun e => absurd (e ▸ h) (by decide)⟩

/-- The only ILLEGAL instruction that the decoder gives for a byte holds that byte. -/
theorem instrOf_illegal {op b1 b2 op' : Byte} (h : instrOf op b1 b2 = .illegal op') : op' = op ∧ op ∈ illegalBytes := by
  have hk : (descriptor op).kind = .illegal := by rw [← instrOf_kind op b1 b2, h]; rfl
  rw [instrOf, hk] at h
  exact ⟨(Instr.illegal.inj h).symm, (descriptor_illegal op).mp hk⟩

/-- What the decoder gives is well formed. -/
theorem instrOf_wellFormed (op b1 b2 : Byte) : (instrOf op b1 b2).WellFormed := by
  simp only [Instr.WellFormed, Instr.wellFormed, Bool.and_eq_true, List.contains_eq_mem, instrOf_kind, instrOf_mode,
    decide_eq_true_eq]
  refine ⟨(descriptor_mode op).1, ?_⟩
  split
  · obtain ⟨rfl, h⟩ := instrOf_illegal ‹_›
    simpa using h
  · rfl

end Sys2Proof
end

