-- ==== Sys2Proof/Laws/Flags.lean ====
section
/-! SUPPORT. Laws/Flags.lean: one flag is written and the others stay (10_state.md R28); the flags after each flag computation. -/

namespace Sys2Proof.Machine

/-- The mask of a flag has that flag's bit and no other (10_state.md R27). -/
theorem Flag.mask_bit (f g : Flag) : f.mask.getLsbD g.bit = decide (g = f) := by cases f <;> cases g <;> decide

theorem Flag.bit_lt (f : Flag) : f.bit < 8 := by cases f <;> decide

/-- Writing a flag sets that flag and leaves the others (10_state.md R28). -/
theorem getFlag_put (p : Byte) (f g : Flag) (v : Bool) : getFlag (putFlag p f v) g = if g = f then v else getFlag p g := by
  unfold getFlag putFlag
  have hg := g.bit_lt
  cases v
  · simp only [Bool.false_eq_true, if_false, BitVec.getLsbD_and, BitVec.getLsbD_not, f.mask_bit, hg, decide_true, Bool.true_and]
    by_cases h : g = f <;> simp [h]
  · by_cases h : g = f <;> simp [BitVec.getLsbD_or, f.mask_bit, h]

@[simp] theorem getFlag_put_same (p : Byte) (f : Flag) (v : Bool) : getFlag (putFlag p f v) f = v := by
  simp [getFlag_put]

theorem getFlag_put_other (p : Byte) (f g : Flag) (v : Bool) (h : g ≠ f) : getFlag (putFlag p f v) g = getFlag p g := by
  simp [getFlag_put, h]

/-- Two status bytes with the same flags are equal. -/
theorem flags_ext {p q : Byte} (h : ∀ f, getFlag p f = getFlag q f) : p = q := by
  apply BitVec.eq_of_getLsbD_eq
  intro i hi
  have c := h .c; have z := h .z; have i' := h .i; have d := h .d
  have b := h .b; have b2 := h .b2; have v := h .v; have n := h .n
  simp only [getFlag, Flag.bit] at *
  match i, hi with
  | 0, _ => exact c
  | 1, _ => exact z
  | 2, _ => exact i'
  | 3, _ => exact d
  | 4, _ => exact b
  | 5, _ => exact b2
  | 6, _ => exact v
  | 7, _ => exact n

/-- The flags after `SetZN(v)` (10_state.md R29). -/
theorem setZN_flag (v : Byte) (s : State) (f : Flag) :
    (setZN v s).flag f = match f with
      | .z => v == 0
      | .n => v.getLsbD 7
      | f => s.flag f := by
  cases f <;> simp [setZN, State.flag, State.setFlag, getFlag_put]

theorem setFlag_flag (s : State) (f g : Flag) (v : Bool) : (s.setFlag f v).flag g = if g = f then v else s.flag g :=
  getFlag_put s.p f g v

/-- The flags after `Compare` (44_compare.md R130). -/
theorem compareFlags_flag (r m : Byte) (s : State) (f : Flag) :
    (compareFlags r m s).flag f = match f with
      | .c => decide (m.toNat ≤ r.toNat)
      | .z => r - m == 0
      | .n => (r - m).getLsbD 7
      | f => s.flag f := by
  cases f <;> simp [compareFlags, setZN_flag, setFlag_flag]

/-- The flags after ADC or SBC (42_arithmetic_logical.md R119, R120). -/
theorem addToA_flag (b : Byte) (s : State) (f : Flag) :
    (addToA b s).flag f = match f with
      | .c => (addC s.a b (s.flag .c)).2.1
      | .v => (addC s.a b (s.flag .c)).2.2
      | .z => (addC s.a b (s.flag .c)).1 == 0
      | .n => (addC s.a b (s.flag .c)).1.getLsbD 7
      | f => s.flag f := by
  cases f <;> simp [addToA, setZN_flag, setFlag_flag] <;> rfl

/-- The flags after BIT (49_flags_bit_nop_brk.md R172). -/
theorem bitFlags_flag (m : Byte) (s : State) (f : Flag) :
    (bitFlags m s).flag f = match f with
      | .z => (s.a &&& m) == 0
      | .n => m.getLsbD 7
      | .v => m.getLsbD 6
      | f => s.flag f := by
  cases f <;> simp [bitFlags, setFlag_flag]

end Sys2Proof.Machine
end

