-- ==== Sys2Proof/Laws/Memory.lean ====
section
/-! SUPPORT. Laws/Memory.lean: a read after a write, and that every memory operation keeps the canonical form. -/

namespace Sys2Proof.Machine

/-! ### lookup and insert -/

@[simp] theorem Memory.lookup_nil (a : Nat) : Memory.lookup [] a = Config.unwritten := rfl

theorem Memory.lookup_insert_other (m : Memory) (a b : Nat) (v : Byte) (h : b ≠ a) :
    Memory.lookup (Memory.insert m a v) b = Memory.lookup m b := by
  induction m with
  | nil =>
    simp only [Memory.insert]
    split
    · rfl
    · simp [Memory.lookup, Ne.symm h]
  | cons c m ih =>
    obtain ⟨k, w⟩ := c
    simp only [Memory.insert]
    split
    · split
      · rfl
      · simp [Memory.lookup, Ne.symm h]
    · split
      · subst a
        split
        · simp [Memory.lookup, Ne.symm h]
        · simp [Memory.lookup, Ne.symm h]
      · simp [Memory.lookup, ih]

/-- An address below every listed one reads as unwritten. -/
theorem Memory.lookup_below (m : Memory) (lo a : Nat) (h : Memory.wfFrom lo m = true) (ha : a < lo) :
    Memory.lookup m a = Config.unwritten := by
  induction m generalizing lo with
  | nil => rfl
  | cons c m ih =>
    obtain ⟨k, w⟩ := c
    simp only [Memory.wfFrom, Bool.and_eq_true, decide_eq_true_eq] at h
    rw [Memory.lookup, if_neg (by omega)]
    exact ih (k + 1) h.2 (by omega)

theorem Memory.lookup_insert_same (m : Memory) (lo a : Nat) (v : Byte) (h : Memory.wfFrom lo m = true) :
    Memory.lookup (Memory.insert m a v) a = v := by
  induction m generalizing lo with
  | nil =>
    simp only [Memory.insert]
    split
    · simp [*]
    · simp [Memory.lookup]
  | cons c m ih =>
    obtain ⟨k, w⟩ := c
    have hw := h
    simp only [Memory.wfFrom, Bool.and_eq_true, decide_eq_true_eq] at h
    simp only [Memory.insert]
    split
    · split
      · rw [Memory.lookup, if_neg (by omega), Memory.lookup_below m (k + 1) a h.2 (by omega)]
        exact Eq.symm ‹_›
      · simp [Memory.lookup]
    · split
      · subst a
        split
        · rw [Memory.lookup_below m (k + 1) k h.2 (by omega)]
          exact Eq.symm ‹_›
        · simp [Memory.lookup]
      · rw [Memory.lookup, if_neg (Ne.symm ‹_›)]
        exact ih (k + 1) h.2

theorem Memory.wfFrom_mono (m : Memory) (hi lo : Nat) (h : Memory.wfFrom hi m = true) (hl : lo ≤ hi) :
    Memory.wfFrom lo m = true := by
  cases m with
  | nil => rfl
  | cons c m =>
    obtain ⟨k, w⟩ := c
    simp only [Memory.wfFrom, Bool.and_eq_true, decide_eq_true_eq] at h ⊢
    exact ⟨⟨⟨by omega, h.1.1.2⟩, h.1.2⟩, h.2⟩

theorem Memory.wfFrom_insert (m : Memory) (lo a : Nat) (v : Byte) (h : Memory.wfFrom lo m = true) (hl : lo ≤ a)
    (ha : a < 65536) : Memory.wfFrom lo (Memory.insert m a v) = true := by
  induction m generalizing lo with
  | nil =>
    simp only [Memory.insert]
    split
    · rfl
    · simp [Memory.wfFrom, *]
  | cons c m ih =>
    obtain ⟨k, w⟩ := c
    have hw := h
    simp only [Memory.wfFrom, Bool.and_eq_true, decide_eq_true_eq] at h
    obtain ⟨⟨⟨h1, h2⟩, h3⟩, h4⟩ := h
    simp only [Memory.insert]
    split
    · split
      · exact hw
      · simp only [Memory.wfFrom, Bool.and_eq_true, decide_eq_true_eq]
        exact ⟨⟨⟨hl, ha⟩, ‹_›⟩, ⟨⟨by omega, h2⟩, h3⟩, h4⟩
    · split
      · subst a
        split
        · exact Memory.wfFrom_mono m (k + 1) lo h4 (by omega)
        · simp only [Memory.wfFrom, Bool.and_eq_true, decide_eq_true_eq]
          exact ⟨⟨⟨h1, h2⟩, ‹_›⟩, h4⟩
      · simp only [Memory.wfFrom, Bool.and_eq_true, decide_eq_true_eq]
        exact ⟨⟨⟨h1, h2⟩, h3⟩, ih (k + 1) h4 (by omega)⟩

/-! ### The access surface -/

@[simp] theorem Memory.wf_nil : Memory.wf [] = true := rfl

@[simp] theorem Memory.read_nil (a : Word) : Memory.read [] a = Config.unwritten := rfl

/-- A read of an address that was not written gives what it gave (20_memory.md R42). -/
theorem Memory.read_write_other (m : Memory) (a b : Word) (v : Byte) (h : b ≠ a) : (m.write a v).read b = m.read b :=
  Memory.lookup_insert_other m a.toNat b.toNat v (fun e => h (BitVec.eq_of_toNat_eq e))

/-- A read of the address written gives the byte written (20_memory.md R40). -/
theorem Memory.read_write_same (m : Memory) (a : Word) (v : Byte) (h : m.wf = true) : (m.write a v).read a = v :=
  Memory.lookup_insert_same m 0 a.toNat v h

theorem Memory.read_write (m : Memory) (a b : Word) (v : Byte) (h : m.wf = true) :
    (m.write a v).read b = if b = a then v else m.read b := by
  split
  · subst b
    exact Memory.read_write_same m a v h
  · exact Memory.read_write_other m a b v ‹_›

/-- A write keeps the canonical form. -/
@[simp] theorem Memory.wf_write (m : Memory) (a : Word) (v : Byte) (h : m.wf = true) : (m.write a v).wf = true :=
  Memory.wfFrom_insert m 0 a.toNat v h (Nat.zero_le _) a.isLt

@[simp] theorem Memory.wf_write16 (m : Memory) (a w : Word) (h : m.wf = true) : (m.write16 a w).wf = true :=
  Memory.wf_write _ _ _ (Memory.wf_write _ _ _ h)

@[simp] theorem Memory.wf_writeBytes (m : Memory) (a : Word) (bs : List Byte) (h : m.wf = true) :
    (m.writeBytes a bs).wf = true := by
  induction bs generalizing m a with
  | nil => exact h
  | cons b bs ih => exact ih _ _ (Memory.wf_write m a b h)

/-! ### The operations on State -/

@[simp] theorem wf_writeByte (ea : Word) (v : Byte) (s : State) (h : s.mem.wf = true) : (writeByte ea v s).mem.wf = true :=
  Memory.wf_write _ _ _ h

@[simp] theorem wf_push8 (v : Byte) (s : State) (h : s.mem.wf = true) : (push8 v s).mem.wf = true :=
  Memory.wf_write _ _ _ h

@[simp] theorem wf_push16 (w : Word) (s : State) (h : s.mem.wf = true) : (push16 w s).mem.wf = true :=
  wf_push8 _ _ (wf_push8 _ _ h)

theorem wf_writeBack (o : Operand) (v : Byte) (s : State) (h : s.mem.wf = true) : (writeBack o v s).mem.wf = true := by
  unfold writeBack
  split
  · exact h
  · split
    · exact Memory.wf_write _ _ _ h
    · exact h

theorem wf_applyEdit (s : State) (e : ObserverEdit) (h : s.mem.wf = true) : (applyEdit s e).mem.wf = true := by
  cases e <;> simp [applyEdit, h]

theorem wf_applyCall (c : ObserverCall) (s : State) (h : s.mem.wf = true) : (applyCall c s).mem.wf = true := by
  induction c generalizing s with
  | nil => exact h
  | cons e c ih => exact ih _ (wf_applyEdit s e h)

@[simp] theorem wf_loadProgram (prog : List Byte) (s : State) (h : s.mem.wf = true) : (loadProgram prog s).mem.wf = true :=
  Memory.wf_write16 _ _ _ (Memory.wf_writeBytes _ _ _ h)

@[simp] theorem wf_placeWord (n w : Nat) (s : State) (h : s.mem.wf = true) : (placeWord n w s).mem.wf = true :=
  Memory.wf_writeBytes _ _ _ h

/-- A host operation keeps the canonical form. -/
theorem wf_hostStep (op : HostOp) (s : State) (h : s.mem.wf = true) : (hostStep op s).mem.wf = true := by
  have hr : ∀ calls t, (startRun calls t).mem = t.mem := by intro calls t; unfold startRun; split <;> rfl
  cases op <;> simp only [hostStep] <;> (try split) <;> simp [h, hr]

end Sys2Proof.Machine
end

