-- ==== Sys2Proof/Laws/Operands.lean ====
section
/-! SUPPORT. Laws/Operands.lean: when the resolver has an address, and everything that the shared operations of Operands.lean can
answer. -/

namespace Sys2Proof.Machine

/-- The resolver has a rule for every mode but Accumulator and Indirect (40_fetch_execute_and_addressing.md R109). -/
theorem effectiveAddress_isSome (o : Operand) (s : State) (h : o.mode ≠ .accumulator ∧ o.mode ≠ .indirect) :
    ∃ ea, effectiveAddress o s = some ea := by
  cases o <;> simp_all [effectiveAddress, Operand.mode]

theorem sourceByte_isSome (o : Operand) (s : State) (h : o.mode ≠ .accumulator ∧ o.mode ≠ .indirect) :
    ∃ v, sourceByte o s = some v := by
  cases o <;> simp_all [sourceByte, effectiveAddress, Operand.mode]

theorem operandByte_isSome (o : Operand) (s : State) (h : o.mode ≠ .indirect) : ∃ v, operandByte o s = some v := by
  cases o <;> simp_all [operandByte, sourceByte, effectiveAddress, Operand.mode]

/-- What `withSource` answers when the source byte is there. -/
theorem withSource_some {o : Operand} {f : Byte → State → State} {s : State} {v : Byte} (h : sourceByte o s = some v) :
    withSource o f s = .next (advance o.length (f v s)) := by
  simp [withSource, h]

/-- Everything that `withSource` can answer. -/
theorem withSource_cases {o : Operand} {f : Byte → State → State} {s t : State} (h : withSource o f s = .next t) :
    (∃ v, sourceByte o s = some v ∧ t = advance o.length (f v s)) ∨
    (sourceByte o s = none ∧ t = raiseFault (.unresolvableMode o.mode) s) := by
  unfold withSource at h
  split at h
  · exact .inl ⟨_, ‹_›, (Host.Outcome.next.inj h).symm⟩
  · exact .inr ⟨‹_›, (Host.Outcome.next.inj h).symm⟩

/-- What `storeByte` answers when there is an address. -/
theorem storeByte_some {o : Operand} {v : Byte} {s : State} {ea : Word} (h : effectiveAddress o s = some ea) :
    storeByte o v s = .next (advance o.length (writeByte ea v s)) := by
  simp [storeByte, h]

/-- Everything that `storeByte` can answer. -/
theorem storeByte_cases {o : Operand} {v : Byte} {s t : State} (h : storeByte o v s = .next t) :
    (∃ ea, effectiveAddress o s = some ea ∧ t = advance o.length (writeByte ea v s)) ∨
    (effectiveAddress o s = none ∧ t = raiseFault (.unresolvableMode o.mode) s) := by
  unfold storeByte at h
  split at h
  · exact .inl ⟨_, ‹_›, (Host.Outcome.next.inj h).symm⟩
  · exact .inr ⟨‹_›, (Host.Outcome.next.inj h).symm⟩

/-- What `modifyByte` answers when there is an address. -/
theorem modifyByte_some {o : Operand} {f : Byte → Byte} {s : State} {ea : Word} (h : effectiveAddress o s = some ea) :
    modifyByte o f s =
      .next (advance o.length (setZN (f (s.mem.read ea)) (writeByte ea (f (s.mem.read ea)) s))) := by
  simp [modifyByte, h]

/-- Everything that `modifyByte` can answer. -/
theorem modifyByte_cases {o : Operand} {f : Byte → Byte} {s t : State} (h : modifyByte o f s = .next t) :
    (∃ ea, effectiveAddress o s = some ea ∧
      t = advance o.length (setZN (f (s.mem.read ea)) (writeByte ea (f (s.mem.read ea)) s))) ∨
    (effectiveAddress o s = none ∧ t = raiseFault (.unresolvableMode o.mode) s) := by
  unfold modifyByte at h
  split at h
  · exact .inl ⟨_, ‹_›, (Host.Outcome.next.inj h).symm⟩
  · exact .inr ⟨‹_›, (Host.Outcome.next.inj h).symm⟩

/-- `WriteBack` in the accumulator form. -/
@[simp] theorem writeBack_accumulator (v : Byte) (s : State) : writeBack .accumulator v s = { s with a := v } := rfl

/-- `WriteBack` in a memory form. -/
theorem writeBack_memory {o : Operand} {v : Byte} {s : State} {ea : Word} (h : effectiveAddress o s = some ea) :
    writeBack o v s = writeByte ea v s := by
  cases o <;> simp_all [writeBack, effectiveAddress]

/-- The resolver looks at nothing of P. -/
@[simp] theorem effectiveAddress_setFlag (o : Operand) (s : State) (f : Flag) (v : Bool) :
    effectiveAddress o (s.setFlag f v) = effectiveAddress o s := by cases o <;> rfl

/-- What a shift answers in the accumulator form. -/
theorem shiftOperand_accumulator (f : Byte → Bool → Byte × Bool) (s : State) :
    shiftOperand .accumulator f s =
      .next (advance 1 (setZN (f s.a (s.flag .c)).1 { s.setFlag .c (f s.a (s.flag .c)).2 with a := (f s.a (s.flag .c)).1 })) := rfl

/-- What a shift answers in a memory form. -/
theorem shiftOperand_memory {o : Operand} {f : Byte → Bool → Byte × Bool} {s : State} {ea : Word}
    (h : effectiveAddress o s = some ea) (hi : o.mode ≠ .immediate) :
    shiftOperand o f s =
      .next (advance o.length (setZN (f (s.mem.read ea) (s.flag .c)).1
        (writeByte ea (f (s.mem.read ea) (s.flag .c)).1 (s.setFlag .c (f (s.mem.read ea) (s.flag .c)).2)))) := by
  have hb : operandByte o s = some (s.mem.read ea) := by
    cases o <;> simp_all [operandByte, sourceByte, effectiveAddress, Operand.mode]
  simp only [shiftOperand, hb]
  rw [writeBack_memory (by simpa using h)]

/-- What `implied` answers. -/
@[simp] theorem implied_next (f : State → State) (s : State) : implied f s = .next (advance 1 (f s)) := rfl

/-- What a taken and a not taken branch answer (45_branches.md R134). -/
theorem branch_next (cond : Bool) (off : Byte) (s : State) :
    branch cond off s = .next (if cond then jump 2 (s.pc + sext off + 1) s else advance 2 s) := by
  unfold branch
  split <;> rfl

end Sys2Proof.Machine
end

