-- ==== Sys2Proof/Laws/Step.lean ====
section
/-! SUPPORT. Laws/Step.lean: the decoder on the bytes at PC, what a step of a running and of a stopped machine is, and the state
after reset. -/

namespace Sys2Proof

/-- The operand form of a one-byte mode has no operand byte. -/
theorem operandOf_length_one {m : Mode} (h : m.length = 1) (b1 b2 : Byte) : operandOf m b1 b2 = operandOf m 0 0 := by
  cases m <;> first | rfl | exact absurd h (by decide)

/-- The operand form of a mode of at most two bytes does not depend on a second operand byte. -/
theorem operandOf_length_two {m : Mode} (h : m.length = 2) (b1 b2 : Byte) : operandOf m b1 b2 = operandOf m b1 0 := by
  cases m <;> first | rfl | exact absurd h (by decide)

/-- A one-byte instruction does not depend on the bytes after it (30_encoding.md R65). -/
theorem instrOf_length_one {op : Byte} (h : (descriptor op).length = 1) (b1 b2 : Byte) :
    instrOf op b1 b2 = instrOf op 0 0 := by
  obtain ⟨hm, hl⟩ := descriptor_mode op
  rw [hl] at h
  unfold instrOf
  rw [operandOf_length_one h b1 b2]
  generalize (descriptor op).kind = k at hm
  cases k
  case bcc | bcs | beq | bmi | bne | bpl | bvc | bvs | jsr =>
    rw [List.mem_singleton.mp hm] at h
    exact absurd h (by decide)
  all_goals rfl

/-- A two-byte instruction does not depend on the second byte after its opcode (30_encoding.md R65). -/
theorem instrOf_length_two {op : Byte} (h : (descriptor op).length = 2) (b1 b2 : Byte) :
    instrOf op b1 b2 = instrOf op b1 0 := by
  obtain ⟨hm, hl⟩ := descriptor_mode op
  rw [hl] at h
  unfold instrOf
  rw [operandOf_length_two h b1 b2]
  generalize (descriptor op).kind = k at hm
  cases k
  case jsr =>
    rw [List.mem_singleton.mp hm] at h
    exact absurd h (by decide)
  all_goals rfl

/-- An instruction is one, two or three bytes long (30_encoding.md R63). -/
theorem descriptor_length (op : Byte) :
    (descriptor op).length = 1 ∨ (descriptor op).length = 2 ∨ (descriptor op).length = 3 := by
  rw [(descriptor_mode op).2]
  cases (descriptor op).mode <;> simp [Mode.length]

namespace Machine

/-- The decoder, given the three bytes at PC, reads the instruction that the step fetches. -/
theorem decode_fetched (s : State) :
    ∃ rest, decode [s.mem.read s.pc, s.mem.read (s.pc + 1), s.mem.read (s.pc + 2)] = .ok (fetchInstr s, rest) := by
  unfold fetchInstr
  generalize s.mem.read s.pc = op
  generalize s.mem.read (s.pc + 1) = b1
  generalize s.mem.read (s.pc + 2) = b2
  rcases descriptor_length op with h | h | h
  · exact ⟨[b1, b2], by simp [decode, h, instrOf_length_one h b1 b2]⟩
  · exact ⟨[b2], by simp [decode, h, instrOf_length_two h b1 b2]⟩
  · exact ⟨[], by simp [decode, h]⟩

/-- What the step fetches is well formed. -/
theorem fetchInstr_wellFormed (s : State) : (fetchInstr s).WellFormed := instrOf_wellFormed _ _ _

/-- A running machine takes a step of the loop. -/
theorem step_running {s : State} (h : s.run = .running) : step s = runInstr (observe s) := by
  simp only [step, h, runObserved]

/-- A stopped machine performs the oldest host operation. -/
theorem step_host {s : State} {op : HostOp} {rest : List HostOp} (h : s.run ≠ .running) (hh : s.host = op :: rest) :
    step s = .next (hostStep op { s with host := rest }) := by
  unfold step
  split
  · exact absurd ‹_› h
  all_goals simp only [stoppedStep, hh]

/-- A halted machine with nothing to do stays as it is (60_exceptions.md R188). -/
theorem step_idle {s : State} (h : s.run = .halted) (hh : s.host = []) : step s = .next s := by
  simp only [step, h, stoppedStep, hh]

/-- The state after reset is what the reset operation makes of any machine that is powered on with no memory listed
(10_state.md R37, R38). -/
theorem reset_eq_hostReset_powerOn (a x y sp p : Byte) (pc : Word) :
    hostReset (State.powerOn a x y sp p pc []) = State.reset := rfl

theorem reset_wf : State.reset.mem.wf = true := rfl

end Machine

end Sys2Proof
end

