-- ==== Sys2Proof/Laws/PerInstr.lean ====
section
/-! SUPPORT. Laws/PerInstr.lean: facts about an instruction as syntax, one lemma a constructor. -/

namespace Sys2Proof.Laws.EncodedLength

/-- A well-formed instruction is encoded in as many bytes as its mode's format has (30_encoding.md R64). -/
def Statement (i : Instr) : Prop := i.WellFormed → (encode i).length = i.length

/-- An instruction with an opcode byte is as long as its operand bytes and one. -/
theorem of_bytes (i : Instr) (hl : i.operandBytes.length + 1 = i.length) : Statement i := by
  intro h
  have hm : i.mode ∈ i.kind.modes := by
    simp only [Instr.WellFormed, Instr.wellFormed, Bool.and_eq_true, List.contains_eq_mem, decide_eq_true_eq] at h
    exact h.1
  obtain ⟨op, ho⟩ := Option.isSome_iff_exists.mp (opcodeOf_isSome i.kind i.mode hm)
  unfold encode
  split
  · rfl
  · simp [ho, ← hl]

/-- The operand bytes of an operand form fill its mode's format. -/
theorem operand_bytes (o : Operand) : o.bytes.length + 1 = o.length := by cases o <;> rfl

theorem of_operand (i : Instr) (o : Operand) (hb : i.operandBytes = o.bytes) (hm : i.mode = o.mode) : Statement i := by
  apply of_bytes
  rw [hb, operand_bytes]
  simp only [Operand.length, Instr.length, hm]

theorem lda (o : Operand) : Statement (.lda o) := of_operand _ o rfl rfl
theorem ldx (o : Operand) : Statement (.ldx o) := of_operand _ o rfl rfl
theorem ldy (o : Operand) : Statement (.ldy o) := of_operand _ o rfl rfl
theorem sta (o : Operand) : Statement (.sta o) := of_operand _ o rfl rfl
theorem stx (o : Operand) : Statement (.stx o) := of_operand _ o rfl rfl
theorem sty (o : Operand) : Statement (.sty o) := of_operand _ o rfl rfl
theorem adc (o : Operand) : Statement (.adc o) := of_operand _ o rfl rfl
theorem sbc (o : Operand) : Statement (.sbc o) := of_operand _ o rfl rfl
theorem and (o : Operand) : Statement (.and o) := of_operand _ o rfl rfl
theorem ora (o : Operand) : Statement (.ora o) := of_operand _ o rfl rfl
theorem eor (o : Operand) : Statement (.eor o) := of_operand _ o rfl rfl
theorem asl (o : Operand) : Statement (.asl o) := of_operand _ o rfl rfl
theorem lsr (o : Operand) : Statement (.lsr o) := of_operand _ o rfl rfl
theorem rol (o : Operand) : Statement (.rol o) := of_operand _ o rfl rfl
theorem ror (o : Operand) : Statement (.ror o) := of_operand _ o rfl rfl
theorem cmp (o : Operand) : Statement (.cmp o) := of_operand _ o rfl rfl
theorem cpx (o : Operand) : Statement (.cpx o) := of_operand _ o rfl rfl
theorem cpy (o : Operand) : Statement (.cpy o) := of_operand _ o rfl rfl
theorem bcc (off : Byte) : Statement (.bcc off) := of_bytes _ rfl
theorem bcs (off : Byte) : Statement (.bcs off) := of_bytes _ rfl
theorem beq (off : Byte) : Statement (.beq off) := of_bytes _ rfl
theorem bmi (off : Byte) : Statement (.bmi off) := of_bytes _ rfl
theorem bne (off : Byte) : Statement (.bne off) := of_bytes _ rfl
theorem bpl (off : Byte) : Statement (.bpl off) := of_bytes _ rfl
theorem bvc (off : Byte) : Statement (.bvc off) := of_bytes _ rfl
theorem bvs (off : Byte) : Statement (.bvs off) := of_bytes _ rfl
theorem jmp (o : Operand) : Statement (.jmp o) := of_operand _ o rfl rfl
theorem jsr (target : Word) : Statement (.jsr target) := of_bytes _ rfl
theorem rts : Statement .rts := of_bytes _ rfl
theorem rti : Statement .rti := of_bytes _ rfl
theorem inc (o : Operand) : Statement (.inc o) := of_operand _ o rfl rfl
theorem dec (o : Operand) : Statement (.dec o) := of_operand _ o rfl rfl
theorem inx : Statement .inx := of_bytes _ rfl
theorem iny : Statement .iny := of_bytes _ rfl
theorem dex : Statement .dex := of_bytes _ rfl
theorem dey : Statement .dey := of_bytes _ rfl
theorem tax : Statement .tax := of_bytes _ rfl
theorem tay : Statement .tay := of_bytes _ rfl
theorem tsx : Statement .tsx := of_bytes _ rfl
theorem txa : Statement .txa := of_bytes _ rfl
theorem txs : Statement .txs := of_bytes _ rfl
theorem tya : Statement .tya := of_bytes _ rfl
theorem pha : Statement .pha := of_bytes _ rfl
theorem php : Statement .php := of_bytes _ rfl
theorem pla : Statement .pla := of_bytes _ rfl
theorem plp : Statement .plp := of_bytes _ rfl
theorem clc : Statement .clc := of_bytes _ rfl
theorem cld : Statement .cld := of_bytes _ rfl
theorem cli : Statement .cli := of_bytes _ rfl
theorem clv : Statement .clv := of_bytes _ rfl
theorem sec : Statement .sec := of_bytes _ rfl
theorem sed : Statement .sed := of_bytes _ rfl
theorem sei : Statement .sei := of_bytes _ rfl
theorem bit (o : Operand) : Statement (.bit o) := of_operand _ o rfl rfl
theorem nop : Statement .nop := of_bytes _ rfl
theorem brk : Statement .brk := of_bytes _ rfl
theorem illegal (op : Byte) : Statement (.illegal op) := fun _ => rfl

end Sys2Proof.Laws.EncodedLength
end

