-- ==== Sys2Proof/Tests/Slice0.lean ====
section
/-! SUPPORT. Tests/Slice0.lean: the WellFormed smoke tests, words written out from 30_encoding.md, one-step tests whose expected
results are the vectors of 95_test_vectors.md (the label of each is in its comment), and a witness of the hypotheses of each statement. -/

namespace Sys2Proof.Tests

open Sys2Proof Sys2Proof.Machine

/-! ### Well-formedness: one ill-formed term for each check -/

/-- LDA has no Accumulator and no ZeroPage_Y form (30_encoding.md R72). -/
theorem test_ill_formed_lda : ¬ (Instr.lda .accumulator).WellFormed ∧ ¬ (Instr.lda (.zeroPageY 0x10)).WellFormed := by decide

/-- LDX has no ZeroPage_X and no Absolute_X form (R113), LDY no ZeroPage_Y (R114). -/
theorem test_ill_formed_index_loads : ¬ (Instr.ldx (.zeroPageX 0)).WellFormed ∧ ¬ (Instr.ldx (.absoluteX 0)).WellFormed ∧
    ¬ (Instr.ldy (.zeroPageY 0)).WellFormed := by decide

/-- The stores have no Immediate form (R115); STX and STY have no indexed absolute form (R116, R117). -/
theorem test_ill_formed_stores : ¬ (Instr.sta (.immediate 0)).WellFormed ∧ ¬ (Instr.stx (.absoluteY 0)).WellFormed ∧
    ¬ (Instr.sty (.absoluteX 0)).WellFormed := by decide

/-- The eight-mode instructions have no JMP form (30_encoding.md R73, R75). -/
theorem test_ill_formed_alu : ¬ (Instr.adc (.indirect 0)).WellFormed ∧ ¬ (Instr.sbc .accumulator).WellFormed ∧
    ¬ (Instr.and (.zeroPageY 0)).WellFormed ∧ ¬ (Instr.ora (.indirect 0)).WellFormed ∧
    ¬ (Instr.eor .accumulator).WellFormed ∧ ¬ (Instr.cmp (.zeroPageY 0)).WellFormed := by decide

/-- The shifts have no Immediate and no Y-indexed form (30_encoding.md R74), INC and DEC no Accumulator form (R78). -/
theorem test_ill_formed_modify : ¬ (Instr.asl (.immediate 0)).WellFormed ∧ ¬ (Instr.lsr (.absoluteY 0)).WellFormed ∧
    ¬ (Instr.rol (.indirectX 0)).WellFormed ∧ ¬ (Instr.ror (.zeroPageY 0)).WellFormed ∧
    ¬ (Instr.inc .accumulator).WellFormed ∧ ¬ (Instr.dec (.immediate 0)).WellFormed := by decide

/-- CPX and CPY have no indexed form (30_encoding.md R75); BIT has no Immediate form (R80). -/
theorem test_ill_formed_compare_bit : ¬ (Instr.cpx (.zeroPageX 0)).WellFormed ∧ ¬ (Instr.cpy (.absoluteX 0)).WellFormed ∧
    ¬ (Instr.bit (.immediate 0)).WellFormed := by decide

/-- JMP has only Absolute and Indirect (30_encoding.md R77). -/
theorem test_ill_formed_jmp : ¬ (Instr.jmp (.zeroPage 0)).WellFormed ∧ ¬ (Instr.jmp (.indirectX 0)).WellFormed := by decide

/-- A documented byte is not an ILLEGAL instruction (30_encoding.md R82). -/
theorem test_ill_formed_illegal : ¬ (Instr.illegal 0xEA).WellFormed ∧ (Instr.illegal 0x02).WellFormed := by decide

/-- An instruction that is not well formed has no encoding, and running it faults (40_fetch_execute_and_addressing.md R110). -/
theorem test_ill_formed_is_not_encoded : encode (.sta (.immediate 0)) = [] ∧
    exec (.lda (.indirect 0)) State.reset = .next { State.reset with run := .faulted (.unresolvableMode .indirect) } := ⟨by decide +kernel, rfl⟩

/-! ### Decoding: the words are written out from the rows of 30_encoding.md R72 to R82 -/

/-- Whether the bytes decode to the instruction with nothing left over, and are what the encoder writes for it. -/
def spells (bs : List Byte) (i : Instr) : Bool :=
  (match decode bs with
    | .ok (j, []) => i == j
    | _ => false) && encode i == bs

theorem test_decode_loads : [
    spells [0xB5, 0x80] (.lda (.zeroPageX 0x80)), spells [0xBE, 0x34, 0x12] (.ldx (.absoluteY 0x1234)),
    spells [0xBC, 0x00, 0x02] (.ldy (.absoluteX 0x0200))].all id = true := by decide +kernel

theorem test_decode_stores : [
    spells [0x91, 0x40] (.sta (.indirectY 0x40)), spells [0x96, 0xFF] (.stx (.zeroPageY 0xFF)),
    spells [0x8C, 0x00, 0x02] (.sty (.absolute 0x0200))].all id = true := by decide +kernel

theorem test_decode_arithmetic : [
    spells [0x71, 0x20] (.adc (.indirectY 0x20)), spells [0xE1, 0x20] (.sbc (.indirectX 0x20)),
    spells [0x3D, 0xFF, 0x12] (.and (.absoluteX 0x12FF)), spells [0x09, 0x80] (.ora (.immediate 0x80)),
    spells [0x59, 0xCD, 0xAB] (.eor (.absoluteY 0xABCD))].all id = true := by decide +kernel

theorem test_decode_shifts : [
    spells [0x0A] (.asl .accumulator), spells [0x4E, 0x00, 0x02] (.lsr (.absolute 0x0200)),
    spells [0x36, 0xFF] (.rol (.zeroPageX 0xFF)), spells [0x7E, 0x00, 0x02] (.ror (.absoluteX 0x0200))].all id = true := by decide +kernel

theorem test_decode_compares : [
    spells [0xD9, 0x01, 0x02] (.cmp (.absoluteY 0x0201)), spells [0xE4, 0x10] (.cpx (.zeroPage 0x10)),
    spells [0xCC, 0x00, 0x02] (.cpy (.absolute 0x0200))].all id = true := by decide +kernel

theorem test_decode_branches : [
    spells [0x90, 0x20] (.bcc 0x20), spells [0xB0, 0xF0] (.bcs 0xF0), spells [0xF0, 0x05] (.beq 0x05),
    spells [0x30, 0x80] (.bmi 0x80), spells [0xD0, 0xF8] (.bne 0xF8), spells [0x10, 0x7F] (.bpl 0x7F),
    spells [0x50, 0x00] (.bvc 0x00), spells [0x70, 0xFE] (.bvs 0xFE)].all id = true := by decide +kernel

theorem test_decode_jumps : [
    spells [0x4C, 0x34, 0x12] (.jmp (.absolute 0x1234)), spells [0x6C, 0xFF, 0x30] (.jmp (.indirect 0x30FF)),
    spells [0x20, 0x0A, 0x06] (.jsr 0x060A), spells [0x60] .rts, spells [0x40] .rti].all id = true := by decide +kernel

theorem test_decode_increments : [
    spells [0xFE, 0xFF, 0xFF] (.inc (.absoluteX 0xFFFF)), spells [0xC6, 0x10] (.dec (.zeroPage 0x10)),
    spells [0xE8] .inx, spells [0xC8] .iny, spells [0xCA] .dex, spells [0x88] .dey].all id = true := by decide +kernel

theorem test_decode_transfers_and_stack : [
    spells [0xAA] .tax, spells [0xA8] .tay, spells [0xBA] .tsx, spells [0x8A] .txa, spells [0x9A] .txs, spells [0x98] .tya,
    spells [0x48] .pha, spells [0x08] .php, spells [0x68] .pla, spells [0x28] .plp].all id = true := by decide +kernel

theorem test_decode_flags_bit_nop_brk_illegal : [
    spells [0x18] .clc, spells [0xD8] .cld, spells [0x58] .cli, spells [0xB8] .clv, spells [0x38] .sec, spells [0xF8] .sed,
    spells [0x78] .sei, spells [0x24, 0x10] (.bit (.zeroPage 0x10)), spells [0xEA] .nop, spells [0x00] .brk,
    spells [0x80] (.illegal 0x80)].all id = true := by decide +kernel

/-- A sequence that ends inside its operand bytes is refused by name; the bytes after an instruction are left alone. -/
theorem test_decode_ends : decode [] = .error .noBytes ∧ decode [0xA9] = .error (.truncated 0xA9) ∧
    decode [0x4C, 0x00] = .error (.truncated 0x4C) ∧ decode [0xEA, 0x4C] = .ok (.nop, [0x4C]) := ⟨rfl, rfl, rfl, rfl⟩

/-- A table word: the second byte is bits 15..8, the third bits 23..16. -/
theorem test_table_word : decodeTableWord 24 0x1234AD = some (.lda (.absolute 0x1234)) ∧
    decodeTableWord 8 0xEA = some .nop ∧ decodeTableWord 8 0xA9 = some (.lda (.immediate 0)) := by decide +kernel

/-- The assembler text of each kind of operand (30_encoding.md R84). -/
theorem test_assembly_text : assemblyText 0x060A (.bne 0xF8) = "BNE $0604" ∧ assemblyText 0 (.lda (.immediate 0xC0)) = "LDA #$C0" ∧
    assemblyText 0 (.asl .accumulator) = "ASL A" ∧ assemblyText 0 (.jmp (.indirect 0x30FF)) = "JMP ($30FF)" ∧
    assemblyText 0 (.sta (.indirectX 0x40)) = "STA ($40,X)" ∧ assemblyText 0 (.lda (.indirectY 0x20)) = "LDA ($20),Y" ∧
    assemblyText 0 (.sta (.absoluteY 0x0300)) = "STA $0300,Y" ∧ assemblyText 0 (.illegal 0x02) = ".byte $02" := by decide

/-! ### One step each: the vectors of 95_test_vectors.md, section 2 -/

/-- A memory that holds these bytes. -/
def holding (cells : List (Word × Byte)) : Memory := cells.foldl (fun m c => m.write c.1 c.2) []

/-- The default start state of 95_test_vectors.md, section 2: `code` at `pc`, the other bytes 0x00 but for `cells`. -/
def placed (pc : Word) (code : List Byte) (cells : List (Word × Byte)) : State :=
  { a := 0x00, x := 0x00, y := 0x00, sp := 0xFD, p := 0x24, pc := pc, mem := (holding cells).writeBytes pc code,
    run := .running, pcRule := .byKind, observer := [], host := [], reply := .nothing }

/-- What a step leaves, looked at through `f`; nothing if the step stops. -/
def after {α : Type} (s : State) (f : State → α) : Option α :=
  match step s with
  | .next t => some (f t)
  | _ => none

/-- V-LS6: LDA ($FF,X). -/
theorem test_lda_pointer_at_0xFF_wraps_in_page_zero :
    after (placed 0x0600 [0xA1, 0xFF] [(0x0000, 0x12), (0x00FF, 0x34), (0x1234, 0x5A)]) (fun t => (t.a, t.p, t.pc)) =
      some (0x5A, 0x24, 0x0602) := by decide

/-- V-LS9: LDA ($FE),Y. -/
theorem test_lda_indirect_indexed_sum_wraps :
    after { placed 0x0600 [0xB1, 0xFE] [(0x0008, 0x3C), (0x00FE, 0xF8), (0x00FF, 0xFF)] with y := 0x10 } (fun t => (t.a, t.p, t.pc)) =
      some (0x3C, 0x24, 0x0602) := by decide

/-- V-LS10: LDX $F0,Y. -/
theorem test_ldx_zero_page_index_wraps :
    after { placed 0x0600 [0xB6, 0xF0] [(0x0010, 0x00)] with x := 0x33, y := 0x20 } (fun t => (t.x, t.p, t.pc)) =
      some (0x00, 0x26, 0x0602) := by decide

/-- V-LS11: LDY $0200,X. -/
theorem test_ldy_absolute_x :
    after { placed 0x0600 [0xBC, 0x00, 0x02] [(0x0205, 0xFE)] with x := 0x05 } (fun t => (t.y, t.p, t.pc)) =
      some (0xFE, 0xA4, 0x0603) := by decide

/-- V-LS17: STA ($40,X). -/
theorem test_sta_indexed_indirect :
    after { placed 0x0600 [0x81, 0x40] [(0x0042, 0x00), (0x0043, 0x03)] with a := 0x77, x := 0x02 } (fun t => (t.mem.read 0x0300, t.p, t.pc)) =
      some (0x77, 0x24, 0x0602) := by decide

/-- V-LS19: STA $0601. -/
theorem test_sta_into_its_own_operand_bytes :
    after { placed 0x0600 [0x8D, 0x01, 0x06] [] with a := 0xEA } (fun t => (t.mem.read 0x0601, t.p, t.pc)) =
      some (0xEA, 0x24, 0x0603) := by decide

/-- V-LS15: STX $FF,Y. -/
theorem test_stx_zero_page_index_wraps :
    after { placed 0x0600 [0x96, 0xFF] [] with x := 0xAB, y := 0x02 } (fun t => (t.mem.read 0x0001, t.p, t.pc)) =
      some (0xAB, 0x24, 0x0602) := by decide

/-- V-LS16: STY $80,X. -/
theorem test_sty_zero_page_index_wraps :
    after { placed 0x0600 [0x94, 0x80] [] with x := 0x90, y := 0x3C } (fun t => (t.mem.read 0x0010, t.p, t.pc)) =
      some (0x3C, 0x24, 0x0602) := by decide

/-- V-AL1: ADC #$50. -/
theorem test_adc_signed_overflow :
    after { placed 0x0600 [0x69, 0x50] [] with a := 0x50 } (fun t => (t.a, t.p, t.pc)) =
      some (0xA0, 0xE4, 0x0602) := by decide

/-- V-AL9: ADC #$09. -/
theorem test_adc_is_binary_with_decimal_set :
    after { placed 0x0600 [0x69, 0x09] [] with a := 0x09, p := 0x2C } (fun t => (t.a, t.p, t.pc)) =
      some (0x12, 0x2C, 0x0602) := by decide

/-- V-AL14: SBC #$01. -/
theorem test_sbc_signed_overflow :
    after { placed 0x0600 [0xE9, 0x01] [] with a := 0x80, p := 0x25 } (fun t => (t.a, t.p, t.pc)) =
      some (0x7F, 0x65, 0x0602) := by decide

/-- V-AL15: SBC #$03. -/
theorem test_sbc_borrows_when_carry_is_clear :
    after { placed 0x0600 [0xE9, 0x03] [] with a := 0x05 } (fun t => (t.a, t.p, t.pc)) =
      some (0x01, 0x25, 0x0602) := by decide

/-- V-AL22: AND #$01. -/
theorem test_and_leaves_carry_and_overflow :
    after { placed 0x0600 [0x29, 0x01] [] with a := 0xFF, p := 0x65 } (fun t => (t.a, t.p, t.pc)) =
      some (0x01, 0x65, 0x0602) := by decide

/-- V-AL24: ORA #$80. -/
theorem test_ora_sets_negative :
    after { placed 0x0600 [0x09, 0x80] [] with a := 0x01 } (fun t => (t.a, t.p, t.pc)) =
      some (0x81, 0xA4, 0x0602) := by decide

/-- V-AL26: EOR #$0F. -/
theorem test_eor_inverts :
    after { placed 0x0600 [0x49, 0x0F] [] with a := 0xF0 } (fun t => (t.a, t.p, t.pc)) =
      some (0xFF, 0xA4, 0x0602) := by decide

/-- V-SH3: ASL A. -/
theorem test_asl_carries_bit_seven_out :
    after { placed 0x0600 [0x0A] [] with a := 0x81 } (fun t => (t.a, t.p, t.pc)) =
      some (0x02, 0x25, 0x0601) := by decide

/-- V-SH4: ASL $10. -/
theorem test_asl_of_memory_shifts_once :
    after (placed 0x0600 [0x06, 0x10] [(0x0010, 0x41)]) (fun t => (t.mem.read 0x0010, t.p, t.pc)) =
      some (0x82, 0xA4, 0x0602) := by decide

/-- V-SH8: LSR A. -/
theorem test_lsr_clears_negative :
    after { placed 0x0600 [0x4A] [] with a := 0xFF, p := 0xA4 } (fun t => (t.a, t.p, t.pc)) =
      some (0x7F, 0x25, 0x0601) := by decide

/-- V-SH16: ROL $FF,X. -/
theorem test_rol_of_memory_takes_the_carry_in :
    after { placed 0x0600 [0x36, 0xFF] [(0x0001, 0x7F)] with x := 0x02, p := 0x25 } (fun t => (t.mem.read 0x0001, t.p, t.pc)) =
      some (0xFF, 0xA4, 0x0602) := by decide

/-- V-SH13: ROR A. -/
theorem test_ror_takes_the_carry_in :
    after { placed 0x0600 [0x6A] [] with a := 0x01, p := 0x25 } (fun t => (t.a, t.p, t.pc)) =
      some (0x80, 0xA5, 0x0601) := by decide

/-- V-CP5: CMP #$FF. -/
theorem test_cmp_is_unsigned :
    after (placed 0x0600 [0xC9, 0xFF] []) (fun t => (t.p, t.pc)) =
      some (0x24, 0x0602) := by decide

/-- V-CP7: CMP #$01. -/
theorem test_cmp_leaves_overflow :
    after { placed 0x0600 [0xC9, 0x01] [] with a := 0x02, p := 0x64 } (fun t => (t.p, t.pc)) =
      some (0x65, 0x0602) := by decide

/-- V-CP9: CPX $10. -/
theorem test_cpx_equal :
    after { placed 0x0600 [0xE4, 0x10] [(0x0010, 0x05)] with x := 0x05 } (fun t => (t.p, t.pc)) =
      some (0x27, 0x0602) := by decide

/-- V-CP11: CPY #$80. -/
theorem test_cpy_less :
    after { placed 0x0600 [0xC0, 0x80] [] with y := 0x7F } (fun t => (t.p, t.pc)) =
      some (0xA4, 0x0602) := by decide

/-- V-BR6: BCC $0012. -/
theorem test_bcc_wraps_past_the_top :
    after (placed 0xFFF0 [0x90, 0x20] []) (fun t => (t.p, t.pc)) =
      some (0x24, 0x0012) := by decide

/-- V-BR7: BCS $FFF2. -/
theorem test_bcs_wraps_below_zero :
    after { placed 0x0000 [0xB0, 0xF0] [] with p := 0x25 } (fun t => (t.p, t.pc)) =
      some (0x25, 0xFFF2) := by decide

/-- V-BR12: BEQ *+1. -/
theorem test_beq_to_its_offset_byte_by_kind :
    after { placed 0x0600 [0xF0, 0xFF] [] with p := 0x26 } (fun t => (t.p, t.pc)) =
      some (0x26, 0x0601) := by decide

/-- V-BR13: BEQ *+1. -/
theorem test_beq_to_its_offset_byte_by_compare :
    after { placed 0x0600 [0xF0, 0xFF] [] with p := 0x26, pcRule := .byCompare } (fun t => (t.p, t.pc)) =
      some (0x26, 0x0602) := by decide

/-- V-BR5: BMI *-126. -/
theorem test_bmi_furthest_back :
    after { placed 0x0600 [0x30, 0x80] [] with p := 0xA4 } (fun t => (t.p, t.pc)) =
      some (0xA4, 0x0582) := by decide

/-- V-BR3: BNE $0604. -/
theorem test_bne_taken :
    after (placed 0x060A [0xD0, 0xF8] []) (fun t => (t.p, t.pc)) =
      some (0x24, 0x0604) := by decide

/-- V-BR14: BNE *+7. -/
theorem test_bne_not_taken :
    after { placed 0x0600 [0xD0, 0x05] [] with p := 0x26 } (fun t => (t.p, t.pc)) =
      some (0x26, 0x0602) := by decide

/-- V-BR4: BPL *+129. -/
theorem test_bpl_furthest_forward :
    after (placed 0x0600 [0x10, 0x7F] []) (fun t => (t.p, t.pc)) =
      some (0x24, 0x0681) := by decide

/-- V-BR8: BVC *+2. -/
theorem test_bvc_taken :
    after (placed 0x0600 [0x50, 0x00] []) (fun t => (t.p, t.pc)) =
      some (0x24, 0x0602) := by decide

/-- V-BR9: BVS *. -/
theorem test_bvs_to_itself :
    after { placed 0x0600 [0x70, 0xFE] [] with p := 0x64 } (fun t => (t.p, t.pc)) =
      some (0x64, 0x0600) := by decide

/-- V-JP2: JMP ($30FF). -/
theorem test_jmp_indirect_stays_in_the_page :
    after (placed 0x0600 [0x6C, 0xFF, 0x30] [(0x3000, 0x80), (0x30FF, 0x40), (0x3100, 0x50)]) (fun t => (t.p, t.pc)) =
      some (0x24, 0x8040) := by decide

/-- V-JP6: JMP $0601. -/
theorem test_jmp_to_the_baseline_by_compare :
    after { placed 0x0600 [0x4C, 0x01, 0x06] [] with pcRule := .byCompare } (fun t => (t.p, t.pc)) =
      some (0x24, 0x0603) := by decide

/-- V-JP8: JSR $0700. -/
theorem test_jsr_pushes_across_the_stack_wrap :
    after { placed 0x0600 [0x20, 0x00, 0x07] [] with sp := 0x00 } (fun t => (t.sp, t.mem.read 0x0100, t.mem.read 0x01FF, t.p, t.pc)) =
      some (0xFE, 0x06, 0x02, 0x24, 0x0700) := by decide

/-- V-JP10: JSR $0601. -/
theorem test_jsr_to_the_baseline_by_compare :
    after { placed 0x0600 [0x20, 0x01, 0x06] [] with pcRule := .byCompare } (fun t => (t.sp, t.mem.read 0x01FC, t.mem.read 0x01FD, t.p, t.pc)) =
      some (0xFB, 0x02, 0x06, 0x24, 0x0603) := by decide

/-- V-JP13: RTS. -/
theorem test_rts_pops_across_the_stack_wrap :
    after { placed 0x0600 [0x60] [(0x0100, 0x10), (0x0101, 0x20)] with sp := 0xFF } (fun t => (t.sp, t.p, t.pc)) =
      some (0x01, 0x24, 0x2011) := by decide

/-- V-JP14: RTI. -/
theorem test_rti_clears_break :
    after { placed 0x0600 [0x40] [(0x01FB, 0xFF), (0x01FC, 0x00), (0x01FD, 0x07)] with sp := 0xFA } (fun t => (t.sp, t.p, t.pc)) =
      some (0xFD, 0xEF, 0x0700) := by decide

/-- V-JP15: RTI. -/
theorem test_rti_sets_break2_and_adds_nothing :
    after { placed 0x0600 [0x40] [(0x01FB, 0x00), (0x01FC, 0x34), (0x01FD, 0x12)] with sp := 0xFA } (fun t => (t.sp, t.p, t.pc)) =
      some (0xFD, 0x20, 0x1234) := by decide

/-- V-ID3: INC $10. -/
theorem test_inc_leaves_carry_and_overflow :
    after { placed 0x0600 [0xE6, 0x10] [(0x0010, 0x00)] with p := 0x65 } (fun t => (t.mem.read 0x0010, t.p, t.pc)) =
      some (0x01, 0x65, 0x0602) := by decide

/-- V-ID5: INC $FFFF,X. -/
theorem test_inc_absolute_index_wraps :
    after { placed 0x0600 [0xFE, 0xFF, 0xFF] [(0x0000, 0x09)] with x := 0x01 } (fun t => (t.mem.read 0x0000, t.p, t.pc)) =
      some (0x0A, 0x24, 0x0603) := by decide

/-- V-ID6: DEC $0200. -/
theorem test_dec_wraps :
    after (placed 0x0600 [0xCE, 0x00, 0x02] []) (fun t => (t.mem.read 0x0200, t.p, t.pc)) =
      some (0xFF, 0xA4, 0x0603) := by decide

/-- V-ID9: INX. -/
theorem test_inx_wraps :
    after { placed 0x0600 [0xE8] [] with x := 0xFF } (fun t => (t.x, t.p, t.pc)) =
      some (0x00, 0x26, 0x0601) := by decide

/-- V-ID11: INY. -/
theorem test_iny_sets_negative :
    after { placed 0x0600 [0xC8] [] with y := 0x7F } (fun t => (t.y, t.p, t.pc)) =
      some (0x80, 0xA4, 0x0601) := by decide

/-- V-ID12: DEX. -/
theorem test_dex_wraps :
    after (placed 0x0600 [0xCA] []) (fun t => (t.x, t.p, t.pc)) =
      some (0xFF, 0xA4, 0x0601) := by decide

/-- V-ID14: DEY. -/
theorem test_dey_sets_zero :
    after { placed 0x0600 [0x88] [] with y := 0x01 } (fun t => (t.y, t.p, t.pc)) =
      some (0x00, 0x26, 0x0601) := by decide

/-- V-TS1: TAX. -/
theorem test_tax_sets_zero :
    after { placed 0x0600 [0xAA] [] with x := 0x12 } (fun t => (t.x, t.p, t.pc)) =
      some (0x00, 0x26, 0x0601) := by decide

/-- V-TS3: TAY. -/
theorem test_tay_sets_negative :
    after { placed 0x0600 [0xA8] [] with a := 0x80 } (fun t => (t.y, t.p, t.pc)) =
      some (0x80, 0xA4, 0x0601) := by decide

/-- V-TS4: TSX. -/
theorem test_tsx_sets_negative :
    after (placed 0x0600 [0xBA] []) (fun t => (t.x, t.p, t.pc)) =
      some (0xFD, 0xA4, 0x0601) := by decide

/-- V-TS5: TXA. -/
theorem test_txa_clears_negative :
    after { placed 0x0600 [0x8A] [] with a := 0x80, x := 0x7F, p := 0xA4 } (fun t => (t.a, t.p, t.pc)) =
      some (0x7F, 0x24, 0x0601) := by decide

/-- V-TS6: TXS. -/
theorem test_txs_writes_no_flag :
    after (placed 0x0600 [0x9A] []) (fun t => (t.sp, t.p, t.pc)) =
      some (0x00, 0x24, 0x0601) := by decide

/-- V-TS8: TYA. -/
theorem test_tya_sets_negative :
    after { placed 0x0600 [0x98] [] with y := 0x80 } (fun t => (t.a, t.p, t.pc)) =
      some (0x80, 0xA4, 0x0601) := by decide

/-- V-TS10: PHA. -/
theorem test_pha_wraps_the_stack :
    after { placed 0x0600 [0x48] [] with a := 0x22, sp := 0x00 } (fun t => (t.sp, t.mem.read 0x0100, t.p, t.pc)) =
      some (0xFF, 0x22, 0x24, 0x0601) := by decide

/-- V-TS12: PHP. -/
theorem test_php_pushes_break_bits_set :
    after { placed 0x0600 [0x08] [] with p := 0xC3 } (fun t => (t.sp, t.mem.read 0x01FD, t.p, t.pc)) =
      some (0xFC, 0xF3, 0xC3, 0x0601) := by decide

/-- V-TS14: PLA. -/
theorem test_pla_wraps_the_stack :
    after { placed 0x0600 [0x68] [(0x0100, 0x80)] with sp := 0xFF } (fun t => (t.a, t.sp, t.p, t.pc)) =
      some (0x80, 0x00, 0xA4, 0x0601) := by decide

/-- V-TS16: PLP. -/
theorem test_plp_takes_every_bit :
    after { placed 0x0600 [0x28] [(0x01FD, 0xFF)] with sp := 0xFC } (fun t => (t.sp, t.p, t.pc)) =
      some (0xFD, 0xFF, 0x0601) := by decide

/-- V-FL1: CLC. -/
theorem test_clc :
    after { placed 0x0600 [0x18] [] with p := 0x25 } (fun t => (t.p, t.pc)) =
      some (0x24, 0x0601) := by decide

/-- V-FL2: CLD. -/
theorem test_cld :
    after { placed 0x0600 [0xD8] [] with p := 0x2C } (fun t => (t.p, t.pc)) =
      some (0x24, 0x0601) := by decide

/-- V-FL3: CLI. -/
theorem test_cli :
    after (placed 0x0600 [0x58] []) (fun t => (t.p, t.pc)) =
      some (0x20, 0x0601) := by decide

/-- V-FL4: CLV. -/
theorem test_clv :
    after { placed 0x0600 [0xB8] [] with p := 0x64 } (fun t => (t.p, t.pc)) =
      some (0x24, 0x0601) := by decide

/-- V-FL5: SEC. -/
theorem test_sec :
    after (placed 0x0600 [0x38] []) (fun t => (t.p, t.pc)) =
      some (0x25, 0x0601) := by decide

/-- V-FL6: SED. -/
theorem test_sed :
    after (placed 0x0600 [0xF8] []) (fun t => (t.p, t.pc)) =
      some (0x2C, 0x0601) := by decide

/-- V-FL7: SEI. -/
theorem test_sei :
    after { placed 0x0600 [0x78] [] with p := 0x20 } (fun t => (t.p, t.pc)) =
      some (0x24, 0x0601) := by decide

/-- V-FL10: BIT $10. -/
theorem test_bit_sets_zero_negative_overflow :
    after { placed 0x0600 [0x24, 0x10] [(0x0010, 0xC0)] with a := 0x01 } (fun t => (t.p, t.pc)) =
      some (0xE6, 0x0602) := by decide

/-- V-FL11: BIT $0200. -/
theorem test_bit_clears_negative_overflow :
    after { placed 0x0600 [0x2C, 0x00, 0x02] [] with a := 0xFF, p := 0xE5 } (fun t => (t.p, t.pc)) =
      some (0x27, 0x0603) := by decide

/-- V-FL13: NOP. -/
theorem test_nop_only_advances :
    after { placed 0x0600 [0xEA] [] with a := 0x12, p := 0xE7 } (fun t => (t.p, t.pc)) =
      some (0xE7, 0x0601) := by decide

/-- V-FL14: BRK. -/
theorem test_brk_halts :
    after (placed 0x0600 [0x00] []) (fun t => (t.p, t.pc, t.run)) =
      some (0x24, 0x0601, .halted) := by decide

/-- V-IL3: .byte $80 $44. -/
theorem test_illegal_byte_faults_after_the_fetch :
    after (placed 0x0600 [0x80, 0x44] []) (fun t => (t.p, t.pc, t.run)) =
      some (0x24, 0x0601, .faulted (.illegalOpcode 0x80 0x0600)) := by decide

/-! ### The host, the observer, the ends of the loop -/

/-- A stopped machine with these operations pending. -/
def stopped (run : RunState) (host : List HostOp) : State := { State.reset with run := run, host := host }

/-- A word placed where the next step fetches runs as the first instruction after reset. -/
theorem test_placed_word_runs_from_reset :
    after (State.reset.withFetchWord 16 0x80A9) (fun t => (t.a, t.p, t.pc, t.run)) = some (0x80, 0xA4, 0x0002, .running) := by decide

/-- V-LR3: a load of no bytes writes the vector and nothing else. -/
theorem test_empty_load_writes_the_vector :
    after (stopped .halted [.load []]) (fun t => (t.mem, t.pc, t.run)) = some ([(0xFFFD, 0x06)], 0x0000, .halted) := by decide

/-- V-LR5: reset sets the registers, reads the vector, and leaves memory and `run` (V-LR7). -/
theorem test_reset_reads_the_vector :
    after { stopped .halted [.reset] with a := 0x55, sp := 0x10, p := 0xFF, mem := holding [(0x0010, 0x99), (0xFFFD, 0x06)] }
      (fun t => (t.a, t.sp, t.p, t.pc, t.mem.read 0x0010, t.run)) = some (0x00, 0xFD, 0x24, 0x0600, 0x99, .halted) := by decide

/-- S5 and the standard launch: load-and-run of a program (section 1). -/
theorem test_launch : after (stopped .halted [.loadAndRun [0xA9, 0xC0] []])
    (fun t => (t.pc, t.p, t.run, t.mem.read 0x0600, t.mem.read 0x0601)) = some (0x0600, 0x24, .running, 0xA9, 0xC0) := by decide

/-- P5: a fault is sticky: `run` changes nothing, and with nothing pending the machine answers its fault. -/
theorem test_fault_is_sticky :
    after (stopped (.faulted (.illegalOpcode 0x02 0x0602)) [.run []]) (fun t => (t.run, t.pc)) =
      some (.faulted (.illegalOpcode 0x02 0x0602), 0x0000) ∧
    step (stopped (.faulted (.illegalOpcode 0x02 0x0602)) []) = .fault (.illegalOpcode 0x02 0x0602) := ⟨by decide, rfl⟩

/-- P7: the observer is called before the fetch, and the instruction sees what it wrote. -/
theorem test_observer_runs_before_the_fetch :
    after { placed 0x0600 [0xAD, 0x00, 0x02] [] with observer := [[.write8 0x0200 0x01], [.setA 0x77]] }
      (fun t => (t.a, t.pc, t.observer)) = some (0x01, 0x0603, [[.setA 0x77]]) := by decide

/-- V-LR4, with words: the host reads a word little-endian; at 0xFFFF its high byte is at 0x0000 (20_memory.md R43). -/
theorem test_host_reads_a_word_across_the_top :
    after { stopped .halted [.read16 0xFFFF] with mem := holding [(0xFFFF, 0x34), (0x0000, 0x12)] } (fun t => t.reply) =
      some (.word 0x1234) := by decide

/-! ### Witnesses: for each statement with hypotheses, a state and operands that meet them -/

/-- A running machine at the top of memory, with something in every field. -/
def busy : State :=
  { a := 0x80, x := 0xFF, y := 0x01, sp := 0x00, p := 0xFF, pc := 0xFFFF, mem := holding [(0xFFFF, 0xA9), (0x0000, 0x80)],
    run := .running, pcRule := .byCompare, observer := [[.setX 0x05], []], host := [.reset], reply := .byte 0x01 }

theorem witness_DecodeOfEncodeIsTheInstruction : (Instr.jmp (.indirect 0xFFFF)).WellFormed ∧ (Instr.illegal 0xFF).WellFormed := by
  decide

theorem witness_EncodeOfDecodedIsTheBytes : decode [0x6C, 0xFF, 0xFF, 0x00] = .ok (.jmp (.indirect 0xFFFF), [0x00]) := rfl

theorem witness_OpcodeTableIsTotalAndUnambiguous : (descriptor 0xA9).kind = (descriptor 0xA9).kind ∧
    (descriptor 0x02).kind = (descriptor 0xFF).kind ∧ (descriptor 0x02).mode = (descriptor 0xFF).mode := by decide

/-- The two ends of a branch's reach, and one past each of them. -/
theorem witness_BranchOffsetReachesItsTarget : branchOffset 0xFFF0 0xFF72 = some 0x80 ∧ branchOffset 0xFFF0 0x0071 = some 0x7F ∧
    branchOffset 0xFFF0 0xFF71 = none ∧ branchOffset 0xFFF0 0x0072 = none := by decide

theorem witness_StepRunsTheDecodedInstruction : busy.run = .running ∧
    decode [(observe busy).mem.read (observe busy).pc, (observe busy).mem.read ((observe busy).pc + 1),
      (observe busy).mem.read ((observe busy).pc + 2)] = .ok (.lda (.immediate 0x80), [0x00]) := ⟨rfl, rfl⟩

/-- A BRK, an ILLEGAL byte, and a byte that is neither. -/
theorem witness_RunningStepEndsAsItsOpcodeSays :
    (placed 0x0600 [0x00] []).mem.read 0x0600 = 0x00 ∧ (placed 0x0600 [0xFF] []).mem.read 0x0600 ∈ illegalBytes ∧
    busy.mem.read busy.pc ≠ 0x00 ∧ busy.mem.read busy.pc ∉ illegalBytes := by decide

theorem witness_IllegalByteFaultsPrecisely : (placed 0xFFFF [0x02] []).run = .running ∧
    (observe (placed 0xFFFF [0x02] [])).mem.read (observe (placed 0xFFFF [0x02] [])).pc ∈ illegalBytes := by decide

/-- Faulted with nothing pending, faulted with a run pending, halted with a run and with a load-and-run pending. -/
theorem witness_StoppedMachineIsLeftOnlyByRun :
    (stopped (.faulted (.illegalOpcode 0x02 0x0600)) []).run = .faulted (.illegalOpcode 0x02 0x0600) ∧
    (∃ t, step (stopped (.faulted (.illegalOpcode 0x02 0x0600)) [.run []]) = .next t) ∧
    (∃ t, step (stopped .halted [.run []]) = .next t ∧ t.run = .running) ∧
    (∃ t, step (stopped .halted [.loadAndRun [0x00] []]) = .next t ∧ t.run = .running) :=
  ⟨rfl, ⟨_, rfl⟩, ⟨_, rfl, rfl⟩, ⟨_, rfl, rfl⟩⟩

/-- A running state that goes on, and one that faults. -/
theorem witness_StepKeepsTheInvariant :
    (Inv busy ∧ ∃ t, step busy = .next t) ∧
    Inv (placed 0x0600 [0x02] []) ∧ ∃ t, step (placed 0x0600 [0x02] []) = .next t :=
  ⟨⟨⟨by decide, trivial⟩, _, rfl⟩, ⟨by decide, trivial⟩, _, rfl⟩

theorem witness_ResetSetsEveryRegister : (stopped .halted [.reset]).run ≠ .running ∧
    (stopped .halted [.reset]).host = .reset :: [] := by decide

/-- The longest program a load takes: it covers the vector, at the clause's boundary `0x0600 + 0xF9FC = 0xFFFC`. -/
theorem witness_LoadWritesTheProgramThenTheVector :
    (stopped .halted [.load (List.replicate 0xFA00 0xEA)]).mem.wf = true ∧
    (stopped .halted [.load (List.replicate 0xFA00 0xEA)]).run ≠ .running ∧
    (stopped .halted [.load (List.replicate 0xFA00 0xEA)]).host = .load (List.replicate 0xFA00 0xEA) :: [] ∧
    (List.replicate 0xFA00 (0xEA : Byte)).length ≤ 0xFA00 ∧
    0xF9FB < (List.replicate 0xFA00 (0xEA : Byte)).length ∧ 0x0600 + 0xF9FB ≠ 0xFFFC ∧ 0x0600 + 0xF9FB ≠ 0xFFFD ∧
    (0xFFFF : Word).toNat < 0x0600 + (List.replicate 0xFA00 (0xEA : Byte)).length := by
  rw [List.length_replicate]; exact ⟨rfl, RunState.noConfusion, rfl, by decide⟩

theorem witness_OverlongLoadIsRefused : (stopped .halted [.load (List.replicate 0xFA01 0xEA)]).run ≠ .running ∧
    (stopped .halted [.loadAndRun (List.replicate 0xFA01 0xEA) []]).run ≠ .running ∧
    (stopped .halted [.load (List.replicate 0xFA01 0xEA)]).host = .load (List.replicate 0xFA01 0xEA) :: [] ∧
    (stopped .halted [.loadAndRun (List.replicate 0xFA01 0xEA) []]).host = .loadAndRun (List.replicate 0xFA01 0xEA) [] :: [] ∧
    0xFA00 < (List.replicate 0xFA01 (0xEA : Byte)).length := by
  rw [List.length_replicate]; exact ⟨RunState.noConfusion, RunState.noConfusion, rfl, rfl, by decide⟩

theorem witness_LoadAndRunGivesTheStandardLaunch : (stopped .halted [.loadAndRun [0xA9, 0xC0] [[]]]).mem.wf = true ∧
    (stopped .halted [.loadAndRun [0xA9, 0xC0] [[]]]).run = .halted ∧
    (stopped .halted [.loadAndRun [0xA9, 0xC0] [[]]]).host = .loadAndRun [0xA9, 0xC0] [[]] :: [] ∧ [(0xA9 : Byte), 0xC0].length ≤ 0xFA00 := by decide

theorem witness_RunResumesAtTheCurrentPc : (stopped .halted [.run [[]]]).host = .run [[]] :: [] ∧
    (stopped .halted [.run [[]]]).run = .halted ∧
    (stopped (.faulted (.illegalOpcode 0x02 0)) [.run []]).run = .faulted (.illegalOpcode 0x02 0) := by decide

/-- One state for each clause, at the top of memory. -/
theorem witness_HostAccessSurfaceReadsAndWrites :
    ∀ op ∈ [HostOp.read8 0xFFFF, .read16 0xFFFF, .write8 0xFFFF 0x00, .write16 0xFFFF 0x1234],
      (stopped .halted [op]).mem.wf = true ∧ (stopped .halted [op]).run ≠ .running ∧ (stopped .halted [op]).host = op :: [] := by decide

/-- The observer of P7, which counts in a byte of memory. -/
theorem witness_EveryObserverIsAListOfChanges :
    let obs := fun s : State => { s with mem := s.mem.write 0x0200 (s.mem.read 0x0200 + 1) }
    busy.mem.wf = true ∧ (obs busy).mem.wf = true ∧ KeepsLoop busy (obs busy) := ⟨by decide, by decide, rfl, rfl, rfl, rfl, rfl⟩

theorem witness_WordAccessIsLittleEndian : busy.mem.wf = true ∧ (0x0001 : Word) ≠ 0xFFFF ∧ (0x0001 : Word) ≠ 0xFFFF + 1 := by decide

theorem witness_MemoryIsDeterminedByItsReads : (holding [(0x0001, 0x02)]).wf = true ∧
    ∀ a, (holding [(0x0001, 0x02)]).read a = (holding [(0x0001, 0x03), (0x0001, 0x02)]).read a := ⟨by decide, fun _ => rfl⟩

/-- At S = 0x00, where the second byte wraps to the top of the stack page. -/
theorem witness_PushThenPopRestoresWordAndPointer : busy.mem.wf = true ∧ busy.sp = 0x00 := by decide

theorem witness_DirectModesResolveAsStated : (Operand.absoluteX 0xFFFF).mode ≠ .immediate ∧
    effectiveAddress (.absoluteX 0xFFFF) busy = some 0x00FE := by decide

theorem witness_LoadsTakeTheSourceByte : (Instr.lda (.indirectY 0xFF)).WellFormed ∧ (Instr.ldx (.zeroPageY 0xFF)).WellFormed ∧
    (Instr.ldy (.absoluteX 0xFFFF)).WellFormed := by decide

theorem witness_StoresWriteOneByte : busy.mem.wf = true ∧ (Instr.sta (.indirectX 0xFF)).WellFormed ∧
    (Instr.stx (.zeroPageY 0xFF)).WellFormed ∧ (Instr.sty (.zeroPageX 0xFF)).WellFormed := by decide

theorem witness_AdcAddsWithCarry : (Instr.adc (.immediate 0xFF)).WellFormed := by decide

theorem witness_SbcSubtractsWithBorrow : (Instr.sbc (.immediate 0xFF)).WellFormed := by decide

theorem witness_LogicalInstructionsCombineIntoA : (Instr.and (.immediate 0xFF)).WellFormed ∧ (Instr.ora (.zeroPage 0xFF)).WellFormed ∧
    (Instr.eor (.absoluteY 0xFFFF)).WellFormed := by decide

/-- The accumulator form and a memory form of each. -/
theorem witness_LeftShiftsMoveUpOneBit : busy.mem.wf = true ∧ (Instr.asl .accumulator).WellFormed ∧
    (Instr.asl (.absoluteX 0xFFFF)).WellFormed ∧ (Instr.rol .accumulator).WellFormed ∧ (Instr.rol (.zeroPageX 0xFF)).WellFormed := by
  decide

/-- The accumulator form and a memory form of each. -/
theorem witness_RightShiftsMoveDownOneBit : busy.mem.wf = true ∧ (Instr.lsr .accumulator).WellFormed ∧
    (Instr.lsr (.absoluteX 0xFFFF)).WellFormed ∧ (Instr.ror .accumulator).WellFormed ∧ (Instr.ror (.zeroPageX 0xFF)).WellFormed := by
  decide

theorem witness_ComparesSetFlagsOnly : (Instr.cmp (.indirectY 0xFF)).WellFormed ∧ (Instr.cpx (.absolute 0xFFFF)).WellFormed ∧
    (Instr.cpy (.immediate 0x00)).WellFormed := by decide

theorem witness_BitTestsTheOperand : (Instr.bit (.absolute 0xFFFF)).WellFormed := by decide

/-- The clauses about PC: a branch taken and not taken, and a target at the baseline (offset 0xFF) under each rule. -/
theorem witness_BranchesFollowTheirFlag : busy.flag .z = true ∧ (placed 0x0601 [] []).flag .z = false ∧
    BitVec.ofInt 16 ((placed 0x0601 [] []).pc.toNat + 1 + (0xFF : Byte).toInt) = (placed 0x0601 [] []).pc ∧
    busy.pcRule = .byCompare ∧ (placed 0x0601 [] []).pcRule = .byKind := by decide

/-- The clauses about PC: a target at the baseline and one elsewhere, under each rule. -/
theorem witness_JmpSetsPc : after { placed 0x0600 [0x4C, 0x01, 0x06] [] with pcRule := .byCompare } (fun t => t.pc) = some 0x0603 ∧
    after (placed 0x0600 [0x4C, 0x01, 0x06] []) (fun t => t.pc) = some 0x0601 := by decide

theorem witness_JsrPushesTheReturnAddress : busy.mem.wf = true ∧ busy.sp = 0x00 ∧ busy.pc = 0xFFFF := by decide

/-- Across the stack wrap, with a subroutine that changed A. -/
theorem witness_RtsUndoesJsr : busy.mem.wf = true ∧ ∃ t u : State, exec (.jsr 0x1234) busy = .next t ∧ u.a ≠ t.a ∧ u.sp = t.sp ∧
    u.mem.read (stackCell busy.sp.toNat) = t.mem.read (stackCell busy.sp.toNat) ∧
    u.mem.read (stackCell (busy.sp.toNat + 255)) = t.mem.read (stackCell (busy.sp.toNat + 255)) :=
  ⟨by decide, _, { busy with a := 0, sp := 0xFE, mem := (push16 (busy.pc + 1) busy).mem }, rfl, by decide, rfl, rfl, rfl⟩

theorem witness_IncAndDecModifyOneByte : busy.mem.wf = true ∧ (Instr.inc (.absoluteX 0xFFFF)).WellFormed ∧
    (Instr.dec (.zeroPageX 0xFF)).WellFormed := by decide

theorem witness_PhaPushesA : busy.mem.wf = true ∧ busy.sp = 0x00 := by decide

theorem witness_PhpPushesStatusWithBreakBitsSet : busy.mem.wf = true ∧ (placed 0x0600 [0x08] []).flag .b = false := by decide

/-- Each register changed: A by a shift in its accumulator form as well. -/
theorem witness_RegistersHaveOnlyTheirWriters :
    (∃ t, exec (.asl .accumulator) busy = .next t ∧ t.reg .a ≠ busy.reg .a) ∧
    (∃ t, exec (.lda (.immediate 0)) busy = .next t ∧ t.reg .a ≠ busy.reg .a) ∧
    (∃ t, exec .inx busy = .next t ∧ t.reg .x ≠ busy.reg .x) ∧ (∃ t, exec .dey busy = .next t ∧ t.reg .y ≠ busy.reg .y) ∧
    (∃ t, exec .rti busy = .next t ∧ t.reg .sp ≠ busy.reg .sp) :=
  ⟨⟨_, rfl, by decide⟩, ⟨_, rfl, by decide⟩, ⟨_, rfl, by decide⟩, ⟨_, rfl, by decide⟩, ⟨_, rfl, by decide⟩⟩

theorem witness_FlagsHaveOnlyTheirWriters :
    (∃ t, exec .clc busy = .next t ∧ t.flag .c ≠ busy.flag .c) ∧ (∃ t, exec .rti busy = .next t ∧ t.flag .b ≠ busy.flag .b) ∧
    (∃ t, exec (.bit (.zeroPage 0x05)) busy = .next t ∧ t.flag .v ≠ busy.flag .v) :=
  ⟨⟨_, rfl, by decide⟩, ⟨_, rfl, by decide⟩, ⟨_, rfl, by decide⟩⟩

theorem witness_MemoryHasOnlyItsWriters :
    (∃ t, exec (.asl (.absolute 0xFFFF)) busy = .next t ∧ t.mem.read 0xFFFF ≠ busy.mem.read 0xFFFF) ∧
    (∃ t, exec .pha busy = .next t ∧ t.mem.read 0x0100 ≠ busy.mem.read 0x0100) := ⟨⟨_, rfl, by decide⟩, ⟨_, rfl, by decide⟩⟩

theorem witness_OnlyControlTransfersSetPc : (Instr.cmp (.absolute 0)).WellFormed ∧ (Instr.cmp (.absolute 0)).kind ∉ pcWriters ∧
    ∃ t, exec (.cmp (.absolute 0)) busy = .next t := ⟨by decide, by decide, _, rfl⟩

theorem witness_PcRulesDifferOnlyAtTheBaseline : (Instr.jmp (.absolute 0xFFFF)).WellFormed ∧ busy.pc = 0xFFFF := by decide

theorem witness_InertFlagsDoNotMatter : ∀ f ∈ [Flag.d, .i, .b, .b2], (f = .d ∨ f = .i ∨ f = .b ∨ f = .b2) ∧
    Instr.adc (.immediate 0x09) ≠ .php ∧ ∃ t, exec (.adc (.immediate 0x09)) busy = .next t :=
  fun f hf => ⟨by revert f; decide, by decide, _, rfl⟩

theorem witness_NoInstructionRaisesAnException : (Instr.rti).WellFormed ∧ Instr.rti ≠ .brk ∧ Instr.rti.kind ≠ .illegal := by decide

end Sys2Proof.Tests
end

section
/-! PROOFS. What `set_flag` and `SetZN` do to P, and that they change nothing else (10_state.md R28, R29). -/

namespace Sys2Proof.Machine

/-- The mask of a flag is the power of two of its bit position (10_state.md R27). -/
theorem Flag.mask_eq_twoPow (f : Flag) : f.mask = BitVec.twoPow 8 f.bit := by cases f <;> rfl

/-- Writing a flag leaves every bit of P at another position (10_state.md R28). -/
theorem putFlag_getLsbD_other (p : Byte) (f : Flag) (v : Bool) {k : Nat} (h : k ≠ f.bit) :
    (putFlag p f v).getLsbD k = p.getLsbD k := by
  have hmask : f.mask.getLsbD k = false := by simp [f.mask_eq_twoPow, BitVec.getLsbD_twoPow, h.symm]
  cases v with
  | true => simp [putFlag, hmask]
  | false => simpa [putFlag, hmask] using BitVec.lt_of_getLsbD

/-- Bit 7 of a byte is set from 128 on. -/
theorem byte_getLsbD_seven_iff (v : Byte) : v.getLsbD 7 = true ↔ 128 ≤ v.toNat := by
  have hmsb : v.getLsbD 7 = decide (2 ^ (8 - 1) ≤ v.toNat) := v.msb_eq_getLsbD_last.symm.trans v.msb_eq_decide
  rw [hmsb]
  simp

/-- `SetZN(v)` leaves Z and N as v has them (10_state.md R29). -/
theorem setZN_ZNFrom (v : Byte) (s : State) : ZNFrom v (setZN v s) := by
  constructor
  · simp [setZN_flag]
  · rw [setZN_flag]
    exact byte_getLsbD_seven_iff v

/-- `SetZN(v)` writes no flag but Z and N (10_state.md R29). -/
theorem setZN_keepsFlags (v : Byte) (s : State) : KeepsFlags [.z, .n] s (setZN v s) := by
  intro f hf
  obtain ⟨hz, hn⟩ : f ≠ .z ∧ f ≠ .n := by simpa using hf
  simp [setZN, setFlag_flag, hz, hn]

/-- Settles O24: the flags after `SetZN` are read off one by one, and of the state only P is written. -/
theorem setZNTouchesOnlyZeroAndNegative : Obligations.SetZNTouchesOnlyZeroAndNegative :=
  fun v s => ⟨setZN_ZNFrom v s, setZN_keepsFlags v s, rfl⟩

/-- Settles O59: the flags by `getFlag_put`, the bits of P by the flag's mask, and of the state only P is written. -/
theorem setFlagChangesOneBitOfP : Obligations.SetFlagChangesOneBitOfP := by
  intro f b s
  refine ⟨?written, ?otherFlags, ?otherBits, rfl⟩
  case written => exact getFlag_put_same s.p f b
  case otherFlags => exact fun g hg => getFlag_put_other s.p f g b hg
  case otherBits => exact fun k hk => putFlag_getLsbD_other s.p f b hk

end Sys2Proof.Machine
end

section
/-! PROOFS. What `Compare` does to C, Z and N, and that it changes nothing else (44_compare.md R130). -/

namespace Sys2Proof.Machine

/-- The wrapped difference of two bytes, in plain arithmetic (44_compare.md R130). -/
theorem byte_toNat_sub (r m : Byte) : (r - m).toNat = (r.toNat + 256 - m.toNat) % 256 := by
  rw [BitVec.toNat_sub]
  omega

/-- `Compare` leaves Z and N as the wrapped difference has them (44_compare.md R130). -/
theorem compareFlags_ZNFrom (r m : Byte) (s : State) : ZNFrom (r - m) (compareFlags r m s) :=
  setZN_ZNFrom (r - m) _

/-- `Compare` writes no flag but C, Z and N (44_compare.md R130). -/
theorem compareFlags_keepsFlags (r m : Byte) (s : State) : KeepsFlags [.c, .z, .n] s (compareFlags r m s) := by
  intro f hf
  obtain ⟨hc, hzn⟩ : f ≠ .c ∧ f ∉ [Flag.z, .n] := by simpa using hf
  calc (compareFlags r m s).flag f
      = (s.setFlag .c (decide (m.toNat ≤ r.toNat))).flag f := setZN_keepsFlags (r - m) _ f hzn
    _ = s.flag f := by simp [setFlag_flag, hc]

/-- Settles O60: C is the written comparison, Z and N are those of the wrapped difference, and of the state only P is written. -/
theorem compareDerivesCZNFromTheDifference : Obligations.CompareDerivesCZNFromTheDifference := by
  intro reg m s
  obtain ⟨hz, hn⟩ := compareFlags_ZNFrom reg m s
  refine ⟨?carry, ?zero, ?negative, compareFlags_keepsFlags reg m s, rfl⟩
  case carry => simp [compareFlags_flag]
  case zero =>
    have heq : reg - m = 0 ↔ reg = m := by bv_omega
    exact hz.trans heq
  case negative => rwa [byte_toNat_sub] at hn

end Sys2Proof.Machine
end

section
/-! PROOFS. The decoder and the encoder undo each other: every well-formed instruction is `instrOf` of some bytes, and the encoder
writes those of them that its length covers (30_encoding.md sections 1 to 4). -/

namespace Sys2Proof

/-! ### The encoder on what the decoder gives -/

/-- The encoder finds the opcode byte of a documented descriptor: no two documented bytes share kind and mode
(30_encoding.md R81). -/
theorem opcodeOf_descriptor {op : Byte} (h : (descriptor op).kind ≠ .illegal) :
    opcodeOf (descriptor op).kind (descriptor op).mode = some op := by
  revert op
  decide +kernel

/-- The operand bytes of an assembled operand form are those that its mode's format has (30_encoding.md R64, R68). -/
theorem operandOf_bytes {m : Mode} (h : m ≠ .relative) (b1 b2 : Byte) :
    (operandOf m b1 b2).bytes = [b1, b2].take (m.length - 1) := by
  cases m
  case relative => exact absurd rfl h
  all_goals simp [operandOf, Operand.bytes, Mode.length]

/-- The operand bytes of a decoded instruction are those that its length covers (30_encoding.md R64, R68). -/
theorem instrOf_operandBytes (op b1 b2 : Byte) :
    (instrOf op b1 b2).operandBytes = [b1, b2].take ((descriptor op).length - 1) := by
  obtain ⟨hm, hl⟩ := descriptor_mode op
  rw [hl]
  unfold instrOf
  have ho := @operandOf_bytes (descriptor op).mode
  generalize (descriptor op).kind = k at hm
  generalize (descriptor op).mode = m at hm ho
  cases k
  case lda | ldx | ldy | sta | stx | sty | adc | sbc | and | ora | eor | asl | lsr | rol | ror | cmp | cpx | cpy | jmp | inc |
      dec | bit =>
    exact ho (fun e => absurd (e ▸ hm) (by decide)) b1 b2
  all_goals
    obtain rfl := List.mem_singleton.mp hm
    simp [instrWith, Instr.operandBytes, Mode.length]

/-- The encoder writes the opcode byte and the operand bytes of what the decoder gives. -/
theorem encode_instrOf (op b1 b2 : Byte) :
    encode (instrOf op b1 b2) = [op, b1, b2].take (descriptor op).length := by
  have hb := instrOf_operandBytes op b1 b2
  have hlen : [op, b1, b2].take (descriptor op).length = op :: [b1, b2].take ((descriptor op).length - 1) := by
    rcases descriptor_length op with h | h | h <;> simp [h]
  unfold encode
  split
  case h_1 op' hi =>
    have hop : op' = op := (instrOf_illegal hi).1
    rw [hlen, ← hb, hi, hop]
    rfl
  case h_2 i hi =>
    have hk : (descriptor op).kind ≠ .illegal := by
      intro hk
      rw [instrOf, hk] at hi
      exact hi op rfl
    rw [instrOf_kind, instrOf_mode, opcodeOf_descriptor hk, hlen, ← hb]

/-- The length of a decoded instruction is its descriptor's. -/
theorem instrOf_length (op b1 b2 : Byte) : (instrOf op b1 b2).length = (descriptor op).length := by
  rw [Instr.length, instrOf_mode, (descriptor_mode op).2]

/-! ### Every well-formed instruction is decoded from some bytes -/

theorem Instr.mode_mem_of_wellFormed {i : Instr} (h : i.WellFormed) : i.mode ∈ i.kind.modes := by
  simp only [Instr.WellFormed, Instr.wellFormed, Bool.and_eq_true, List.contains_eq_mem, decide_eq_true_eq] at h
  exact h.1

/-- Every operand form is assembled from its own bytes (30_encoding.md R68). -/
theorem Operand.exists_operandOf (o : Operand) : ∃ b1 b2, operandOf o.mode b1 b2 = o := by
  cases o with
  | accumulator => exact ⟨0, 0, rfl⟩
  | immediate b | zeroPage b | zeroPageX b | zeroPageY b | indirectX b | indirectY b => exact ⟨b, 0, rfl⟩
  | absolute w | absoluteX w | absoluteY w | indirect w =>
    exact ⟨loByte w, hiByte w, by simp [operandOf, Operand.mode]⟩

/-- Every documented instruction is its kind with its operand bytes filled in (30_encoding.md R68, R71). -/
theorem Instr.exists_instrWith {i : Instr} (h : i.kind ≠ .illegal) :
    ∃ b1 b2, ∀ op, instrWith i.kind (operandOf i.mode b1 b2) op b1 (cat b2 b1) = i := by
  cases i
  case illegal op => exact absurd rfl h
  case bcc off | bcs off | beq off | bmi off | bne off | bpl off | bvc off | bvs off => exact ⟨off, 0, fun _ => rfl⟩
  case jsr w => exact ⟨loByte w, hiByte w, fun _ => by simp [instrWith, Instr.kind]⟩
  case lda o | ldx o | ldy o | sta o | stx o | sty o | adc o | sbc o | and o | ora o | eor o | asl o | lsr o | rol o | ror o |
      cmp o | cpx o | cpy o | jmp o | inc o | dec o | bit o =>
    obtain ⟨b1, b2, ho⟩ := o.exists_operandOf
    exact ⟨b1, b2, fun _ => by simp only [instrWith, Instr.kind, Instr.mode, ho]⟩
  all_goals exact ⟨0, 0, fun _ => rfl⟩

/-- Every well-formed instruction is what the decoder gives for some bytes. -/
theorem Instr.exists_instrOf {i : Instr} (h : i.WellFormed) : ∃ op b1 b2, instrOf op b1 b2 = i := by
  by_cases hk : i.kind = .illegal
  case pos =>
    cases i
    case illegal op =>
      have hop : op ∈ illegalBytes := by simpa [Instr.wellFormed] using (Bool.and_eq_true_iff.mp h).2
      exact ⟨op, 0, 0, by rw [instrOf, (descriptor_illegal op).mpr hop, instrWith]⟩
    all_goals exact absurd hk (by simp [Instr.kind])
  case neg =>
    obtain ⟨op, hop⟩ := Option.isSome_iff_exists.mp (opcodeOf_isSome i.kind i.mode (i.mode_mem_of_wellFormed h))
    obtain ⟨hkind, hmode⟩ := descriptor_opcodeOf hop
    obtain ⟨b1, b2, hi⟩ := Instr.exists_instrWith hk
    exact ⟨op, b1, b2, by rw [instrOf, hkind, hmode, hi]⟩

/-! ### The decoder -/

/-- The decoder takes the bytes that the opcode's length covers and leaves the rest (30_encoding.md R63, R65). -/
theorem decode_take (op b1 b2 : Byte) (rest : List Byte) :
    decode ([op, b1, b2].take (descriptor op).length ++ rest) = .ok (instrOf op b1 b2, rest) := by
  rcases descriptor_length op with h | h | h
  · simp [decode, h, instrOf_length_one h b1 b2]
  · simp [decode, h, instrOf_length_two h b1 b2]
  · simp [decode, h]

/-- Everything that the decoder accepts. -/
theorem decode_cases {bs rest : List Byte} {i : Instr} (h : decode bs = .ok (i, rest)) :
    ∃ op b1 b2, instrOf op b1 b2 = i ∧ [op, b1, b2].take (descriptor op).length ++ rest = bs := by
  cases bs with
  | nil => exact absurd h (by simp [decode])
  | cons op tail =>
    simp only [decode] at h
    split at h
    case h_1 hlen =>
      cases h
      exact ⟨op, 0, 0, rfl, by rw [hlen]; rfl⟩
    case h_2 b1 _ hlen =>
      cases h
      exact ⟨op, b1, 0, rfl, by rw [hlen]; rfl⟩
    case h_3 b1 b2 _ hlen =>
      cases h
      exact ⟨op, b1, b2, rfl, by rw [hlen]; rfl⟩
    case h_4 => exact absurd h (by simp)

/-- Settles O1: the instruction is `instrOf` of some bytes, which the encoder writes and the decoder takes. -/
theorem decodeOfEncodeIsTheInstruction : Obligations.DecodeOfEncodeIsTheInstruction := by
  intro i rest hwf
  obtain ⟨op, b1, b2, rfl⟩ := Instr.exists_instrOf hwf
  rw [encode_instrOf, decode_take]

/-- Settles O2: what the decoder accepts is `instrOf` of the bytes that it took. -/
theorem encodeOfDecodedIsTheBytes : Obligations.EncodeOfDecodedIsTheBytes := by
  intro bs i rest h
  obtain ⟨op, b1, b2, rfl, rfl⟩ := decode_cases h
  exact ⟨instrOf_wellFormed op b1 b2, by rw [encode_instrOf]⟩

/-- Two documented opcode bytes with the same kind and mode are equal: the encoder finds one byte for both. -/
theorem descriptor_unambiguous {op op' : Byte} (hk : (descriptor op).kind = (descriptor op').kind)
    (hm : (descriptor op).mode = (descriptor op').mode) (hd : (descriptor op).kind ≠ .illegal) : op = op' :=
  Option.some.inj <| calc
    some op = opcodeOf (descriptor op).kind (descriptor op).mode := (opcodeOf_descriptor hd).symm
    _ = opcodeOf (descriptor op').kind (descriptor op').mode := by rw [hk, hm]
    _ = some op' := opcodeOf_descriptor (hk ▸ hd)

/-- Settles O3: the decoder takes what the length covers of any three bytes, and the encoder finds one byte for a kind and
mode. -/
theorem opcodeTableIsTotalAndUnambiguous : Obligations.OpcodeTableIsTotalAndUnambiguous := by
  refine ⟨?total, ?counts, descriptor_illegal, ?unambiguous⟩
  case total =>
    intro op b1 b2
    refine ⟨instrOf op b1 b2, ?_, instrOf_kind op b1 b2, instrOf_length op b1 b2⟩
    have h := decode_take op b1 b2 ([op, b1, b2].drop (descriptor op).length)
    rwa [List.take_append_drop] at h
  case counts => exact ⟨opcodeTable_length, by decide +kernel, rfl⟩
  case unambiguous => exact fun op op' hk hm => (Decidable.em _).imp_right (descriptor_unambiguous hk hm)

/-- Settles O5: the fetch is `instrOf` of the three bytes from PC on, of which the encoder writes as many as the length says. -/
theorem fetchedInstructionIsTheBytesAtPc : Obligations.FetchedInstructionIsTheBytesAtPc := by
  intro s
  rw [Machine.fetchInstr, encode_instrOf, instrOf_length]
  rcases descriptor_length (s.mem.read s.pc) with h | h | h <;> simp [h, List.range_succ]

/-- Settles O4: each word is looked up in the table. -/
theorem wordsOfTheSpecDecode : Obligations.WordsOfTheSpecDecode := by
  refine ⟨?_, ?_, ?_, ?_, ?_, ?_, ?_, ?_, ?_, ?_, ?_, ?_, ?_, ?_⟩ <;> rfl

end Sys2Proof
end

section
/-! PROOFS. The offset byte of a branch (30_encoding.md R84). -/

namespace Sys2Proof

/-- Sign extension keeps the signed value (00_scope.md R11). -/
theorem sext_eq_ofInt (b : Byte) : sext b = BitVec.ofInt 16 b.toInt := rfl

/-- The low byte of a sign-extended byte is that byte. -/
theorem loByte_sext (b : Byte) : loByte (sext b) = b := by
  ext i hi
  simp [loByte, sext, BitVec.getElem_signExtend, hi, show i < 16 by omega]

/-- Adding a sign-extended byte to a word is signed addition modulo 65536. -/
theorem add_sext_eq_ofInt (a : Word) (k : Nat) (b : Byte) :
    a + BitVec.ofNat 16 k + sext b = BitVec.ofInt 16 (a.toNat + k + b.toInt) := by
  rw [BitVec.ofInt_add, BitVec.ofInt_add, BitVec.ofInt_natCast, BitVec.ofInt_natCast, BitVec.ofNat_toNat, BitVec.setWidth_eq,
    sext_eq_ofInt]

/-- The assembler's offset byte is the one that leads to the target. -/
theorem branchOffset_eq_some_iff {a target : Word} {b : Byte} : branchOffset a target = some b ↔ a + 2 + sext b = target := by
  have hdiff : ∀ b : Byte, a + 2 + sext b = target → loByte (target - (a + 2)) = b := by
    rintro b rfl
    rw [BitVec.add_comm (a + 2), BitVec.add_sub_cancel, loByte_sext]
  simp only [branchOffset, Option.ite_none_right_eq_some, Option.some.injEq]
  constructor
  · rintro ⟨h, rfl⟩
    exact h
  · intro h
    rw [hdiff b h]
    exact ⟨h, rfl⟩

/-- Settles O6: an offset byte is a signed number from -128 to 127, and the assembler finds the one that leads to the target. -/
theorem branchOffsetReachesItsTarget : Obligations.BranchOffsetReachesItsTarget := by
  intro a target
  have hreach : ∀ b, branchOffset a target = some b ↔ target = BitVec.ofInt 16 (a.toNat + 2 + b.toInt) := by
    intro b
    have hsum : a + 2 + sext b = BitVec.ofInt 16 (a.toNat + 2 + b.toInt) := add_sext_eq_ofInt a 2 b
    rw [branchOffset_eq_some_iff, hsum, eq_comm]
  refine ⟨⟨?offset_in_reach, ?reach_has_offset⟩, fun b => (hreach b).mp⟩
  case offset_in_reach =>
    rintro ⟨b, hb⟩
    exact ⟨b.toInt, b.le_toInt, by have := b.toInt_lt; omega, (hreach b).mp hb⟩
  case reach_has_offset =>
    rintro ⟨d, hlo, hhi, rfl⟩
    have hd : (BitVec.ofInt 8 d).toInt = d := by
      rw [BitVec.toInt_ofInt, Int.bmod_eq_of_le] <;> omega
    exact ⟨BitVec.ofInt 8 d, (hreach _).mpr (by rw [hd])⟩

end Sys2Proof
end

section
/-! PROOFS. Words in memory, a run of bytes, and that a canonical memory is determined by its reads (20_memory.md). -/

namespace Sys2Proof.Machine

/-! ### Words -/

/-- The address after another one, wrapping, is not the same (20_memory.md R43). -/
theorem word_add_one_ne (a : Word) : a + 1 ≠ a := by bv_omega

theorem cat_congr {hi hi' lo lo' : Byte} (hhi : hi = hi') (hlo : lo = lo') : cat hi lo = cat hi' lo' := by rw [hhi, hlo]

/-- A word is read little-endian (20_memory.md R43). -/
theorem Memory.read16_toNat (m : Memory) (a : Word) :
    (m.read16 a).toNat = (m.read a).toNat + 256 * (m.read (a + 1)).toNat := by
  rw [Memory.read16, cat_toNat]
  omega

theorem Memory.read_write16_low (m : Memory) (a w : Word) (h : m.wf = true) : (m.write16 a w).read a = loByte w := by
  rw [Memory.write16, Memory.read_write_other _ _ _ _ (word_add_one_ne a).symm, Memory.read_write_same _ _ _ h]

theorem Memory.read_write16_high (m : Memory) (a w : Word) (h : m.wf = true) :
    (m.write16 a w).read (a + 1) = hiByte w :=
  Memory.read_write_same _ _ _ (Memory.wf_write _ _ _ h)

theorem Memory.read_write16_other (m : Memory) {a b : Word} (w : Word) (hlo : b ≠ a) (hhi : b ≠ a + 1) :
    (m.write16 a w).read b = m.read b := by
  rw [Memory.write16, Memory.read_write_other _ _ _ _ hhi, Memory.read_write_other _ _ _ _ hlo]

/-- Settles O21: the two bytes of a word are read, written and kept one by one. -/
theorem wordAccessIsLittleEndian : Obligations.WordAccessIsLittleEndian := by
  intro m a w h
  refine ⟨m.read16_toNat a, rfl, ?low, ?high, fun b hlo hhi => m.read_write16_other w hlo hhi⟩
  case low => rw [m.read_write16_low a w h, loByte_toNat]
  case high => rw [m.read_write16_high a w h, hiByte_toNat]

/-! ### A run of bytes -/

/-- After a run of bytes that does not lap itself is stored from `a` on, the address `a + k` holds byte `k`, and an address
past the run what it held (70_reset_and_hazards.md R189). -/
theorem Memory.read_writeBytes (bs : List Byte) (m : Memory) (a b : Word) (h : m.wf = true) (hlen : bs.length ≤ 65536) :
    (m.writeBytes a bs).read b = (bs[(b - a).toNat]?).getD (m.read b) := by
  induction bs generalizing m a with
  | nil => rfl
  | cons v bs ih =>
    rw [List.length_cons] at hlen
    rw [Memory.writeBytes, ih _ _ (Memory.wf_write m a v h) (by omega)]
    by_cases hb : b = a
    case pos =>
      subst hb
      have hlast : (b - (b + 1)).toNat = 65535 := by bv_omega
      have hfirst : (b - b).toNat = 0 := by bv_omega
      rw [hlast, hfirst, List.getElem?_eq_none (by omega), Memory.read_write_same m b v h]
      rfl
    case neg =>
      have hnext : (b - a).toNat = (b - (a + 1)).toNat + 1 := by bv_omega
      rw [hnext, List.getElem?_cons_succ, Memory.read_write_other m a b v hb]

/-! ### Extensionality -/

theorem Memory.wfFrom_cons {lo k : Nat} {v : Byte} {m : Memory} :
    Memory.wfFrom lo ((k, v) :: m) = true ↔
      lo ≤ k ∧ k < 65536 ∧ v ≠ Config.unwritten ∧ Memory.wfFrom (k + 1) m = true := by
  simp [Memory.wfFrom, and_assoc]

/-- A listed cell of a canonical memory makes it differ from one that lists only higher addresses. -/
theorem Memory.lookup_ne_of_lt {k lo lo' : Nat} {v : Byte} {m m' : Memory} (h : Memory.wfFrom lo ((k, v) :: m) = true)
    (h' : Memory.wfFrom lo' m' = true) (hk : k < lo') : Memory.lookup ((k, v) :: m) k ≠ Memory.lookup m' k := by
  obtain ⟨-, -, hv, -⟩ := Memory.wfFrom_cons.mp h
  rw [Memory.lookup_below m' lo' k h' hk]
  simpa [Memory.lookup] using hv

/-- Canonical memories with the same reads list the same cells: by their first cells, which must be equal. -/
theorem Memory.wfFrom_ext (m m' : Memory) (lo : Nat) (h : Memory.wfFrom lo m = true) (h' : Memory.wfFrom lo m' = true)
    (heq : ∀ a < 65536, Memory.lookup m a = Memory.lookup m' a) : m = m' := by
  induction m generalizing m' lo with
  | nil =>
    cases m' with
    | nil => rfl
    | cons c m' =>
      have hc := Memory.wfFrom_cons.mp h'
      exact absurd (heq c.1 hc.2.1).symm (Memory.lookup_ne_of_lt h' (rfl : Memory.wfFrom (c.1 + 1) [] = true) (by omega))
  | cons c m ih =>
    obtain ⟨k, v⟩ := c
    obtain ⟨hlo, hk, hv, hm⟩ := Memory.wfFrom_cons.mp h
    cases m' with
    | nil => exact absurd (heq k hk) (Memory.lookup_ne_of_lt h (rfl : Memory.wfFrom (k + 1) [] = true) (by omega))
    | cons c' m' =>
      obtain ⟨k', v'⟩ := c'
      obtain ⟨hlo', hk', hv', hm'⟩ := Memory.wfFrom_cons.mp h'
      rcases Nat.lt_trichotomy k k' with hlt | rfl | hgt
      · have h'' : Memory.wfFrom k' ((k', v') :: m') = true := Memory.wfFrom_cons.mpr ⟨Nat.le_refl _, hk', hv', hm'⟩
        exact absurd (heq k hk) (Memory.lookup_ne_of_lt h h'' hlt)
      · obtain rfl : v = v' := by simpa [Memory.lookup] using heq k hk
        have htail : ∀ a < 65536, Memory.lookup m a = Memory.lookup m' a := by
          intro a ha
          by_cases hak : k = a
          · subst hak
            rw [Memory.lookup_below m (k + 1) k hm (by omega), Memory.lookup_below m' (k + 1) k hm' (by omega)]
          · simpa [Memory.lookup, hak] using heq a ha
        rw [ih m' (k + 1) hm hm' htail]
      · have h'' : Memory.wfFrom k ((k, v) :: m) = true := Memory.wfFrom_cons.mpr ⟨Nat.le_refl _, hk, hv, hm⟩
        exact absurd (heq k' hk').symm (Memory.lookup_ne_of_lt h' h'' hgt)

/-- Settles O22: canonical memories that read the same list the same cells. -/
theorem memoryIsDeterminedByItsReads : Obligations.MemoryIsDeterminedByItsReads := by
  intro m m' h h' heq
  refine Memory.wfFrom_ext m m' 0 h h' fun a ha => ?_
  have hread := heq (BitVec.ofNat 16 a)
  rwa [Memory.read, Memory.read, BitVec.toNat_ofNat, Nat.mod_eq_of_lt ha] at hread

end Sys2Proof.Machine
end

section
/-! PROOFS. The stack cell that S names, and a word pushed and popped (20_memory.md R51 to R57). -/

namespace Sys2Proof.Machine

theorem stackAddress_toNat (sp : Byte) : (stackAddress sp).toNat = 256 + sp.toNat := by
  have hbase : Config.stackBase.toNat = 256 := rfl
  have := sp.isLt
  rw [stackAddress, BitVec.toNat_add, zext_toNat, hbase]
  omega

/-- The stack cell of a number is the stack address of its low byte (10_state.md R21). -/
theorem stackCell_eq_stackAddress (n : Nat) : stackCell n = stackAddress (BitVec.ofNat 8 n) := by
  apply BitVec.eq_of_toNat_eq
  simp only [stackCell, stackAddress_toNat, BitVec.toNat_ofNat]
  omega

@[simp] theorem stackCell_toNat (sp : Byte) : stackCell sp.toNat = stackAddress sp := by
  simp [stackCell_eq_stackAddress]

@[simp] theorem stackCell_toNat_add (sp : Byte) (k : Nat) :
    stackCell (sp.toNat + k) = stackAddress (sp + BitVec.ofNat 8 k) := by
  simp [stackCell_eq_stackAddress, BitVec.ofNat_add]

/-- Two values of S name the same stack cell only if they are equal. -/
theorem stackAddress_inj {sp sp' : Byte} : stackAddress sp = stackAddress sp' ↔ sp = sp' := by
  rw [← BitVec.toNat_inj, ← BitVec.toNat_inj, stackAddress_toNat, stackAddress_toNat]
  omega

/-- The two cells of a pushed word are different. -/
theorem stackAddress_sub_one_ne (sp : Byte) : stackAddress (sp - 1) ≠ stackAddress sp := by
  rw [Ne, stackAddress_inj]
  bv_omega

/-- The stack cell 255 above, wrapping in the stack page, is the one below (20_memory.md R55). -/
@[simp] theorem stackCell_toNat_add_255 (sp : Byte) : stackCell (sp.toNat + 255) = stackAddress (sp - 1) := by
  have hsub : sp + BitVec.ofNat 8 255 = sp - 1 := by bv_omega
  rw [stackCell_toNat_add, hsub]

/-- The high byte of a pushed word is at the cell that S named (20_memory.md R53). -/
theorem push16_read_high (w : Word) (s : State) (h : s.mem.wf = true) :
    (push16 w s).mem.read (stackAddress s.sp) = hiByte w := by
  rw [push16_mem, Memory.read_write_other _ _ _ _ (stackAddress_sub_one_ne s.sp).symm, Memory.read_write_same _ _ _ h]

/-- The low byte of a pushed word is at the cell below (20_memory.md R53). -/
theorem push16_read_low (w : Word) (s : State) (h : s.mem.wf = true) :
    (push16 w s).mem.read (stackAddress (s.sp - 1)) = loByte w :=
  Memory.read_write_same _ _ _ (Memory.wf_write _ _ _ h)

/-- A pushed word leaves every other byte (20_memory.md R53). -/
theorem push16_keepsMem (w : Word) (s : State) :
    KeepsMem [stackAddress s.sp, stackAddress (s.sp - 1)] s (push16 w s) := by
  intro a ha
  obtain ⟨hhi, hlo⟩ : a ≠ stackAddress s.sp ∧ a ≠ stackAddress (s.sp - 1) := by simpa using ha
  rw [push16_mem, Memory.read_write_other _ _ _ _ hlo, Memory.read_write_other _ _ _ _ hhi]

/-- A pop reads back the two bytes that S was lowered past (20_memory.md R54). -/
theorem pop16_of_pushed {s u : State} {w : Word} (hsp : u.sp = s.sp - 1 - 1)
    (hhi : u.mem.read (stackAddress s.sp) = hiByte w) (hlo : u.mem.read (stackAddress (s.sp - 1)) = loByte w) :
    (pop16 u).1 = w ∧ (pop16 u).2.sp = s.sp := by
  have hone : s.sp - 1 - 1 + 1 = s.sp - 1 := by bv_omega
  have htwo : s.sp - 1 + 1 = s.sp := by bv_omega
  rw [pop16_fst, pop16_snd, hsp, hone, htwo, hhi, hlo, cat_hi_lo]
  exact ⟨rfl, rfl⟩

/-- Settles O23: the pop reads the two cells that the push wrote, and the stack page is 0x0100 to 0x01FF. -/
theorem pushThenPopRestoresWordAndPointer : Obligations.PushThenPopRestoresWordAndPointer := by
  intro s w h
  have hhi := push16_read_high w s h
  have hlo := push16_read_low w s h
  obtain ⟨hword, hsp⟩ := pop16_of_pushed (push16_sp w s) hhi hlo
  rw [stackCell_toNat, stackCell_toNat_add_255]
  refine ⟨hword, hsp, ?high, ?low, push16_keepsMem w s, ?page⟩
  case high => rw [hhi, hiByte_toNat]
  case low => rw [hlo, loByte_toNat]
  case page =>
    intro sp
    rw [stackAddress_toNat]
    have := sp.isLt
    omega

end Sys2Proof.Machine
end

section
/-! PROOFS. What `exec` can do to a state, said once for all instructions: it looks at the registers, PC, memory and the flags
C, Z, N and V, makes only the writes that the spec's summaries list for its kind (10_state.md R18, R22, R31; 20_memory.md R46),
and ends with the PC advance, a jump, or the end of the loop. `exec_related` says so for two states run side by side; every rule
of the whole machine follows from it. -/

namespace Sys2Proof

/-- Only the Accumulator form has the Accumulator mode (30_encoding.md R67). -/
theorem Operand.mode_eq_accumulator_iff (o : Operand) : o.mode = .accumulator ↔ o = .accumulator := by
  cases o <;> simp [Operand.mode]

/-- Only BRK has the kind BRK (30_encoding.md R71). -/
theorem Instr.eq_brk_of_kind {i : Instr} (h : i.kind = .brk) : i = .brk := by
  cases i
  case brk => rfl
  all_goals exact nomatch h

end Sys2Proof

namespace Sys2Proof.Machine

/-! ### The writes an instruction may make -/

/-- A register written (10_state.md R16). -/
def State.setReg (s : State) (r : Reg) (v : Byte) : State :=
  match r with
  | .a => { s with a := v }
  | .x => { s with x := v }
  | .y => { s with y := v }
  | .sp => { s with sp := v }

theorem State.setReg_reg (s : State) (r r' : Reg) (v : Byte) :
    (s.setReg r v).reg r' = if r' = r then v else s.reg r' := by
  cases r <;> cases r' <;> rfl

/-- The registers that an instruction may write (10_state.md R18, R22). -/
def MayWriteReg (i : Instr) (r : Reg) : Prop :=
  i.kind ∈ regWriters r ∨ (r = .a ∧ i.kind ∈ shiftKinds ∧ i.mode = .accumulator)

/-- Whether an instruction may write memory (20_memory.md R46). -/
def MayWriteMem (i : Instr) : Prop := i.kind ∈ memWriters ∨ (i.kind ∈ shiftKinds ∧ i.mode ≠ .accumulator)

/-- Whether an instruction may end the loop: BRK, an ILLEGAL byte, and a term that no byte encodes (60_exceptions.md R175). -/
def MayStop (i : Instr) : Prop := i.kind = .brk ∨ i.kind = .illegal ∨ ¬ i.WellFormed

/-- Two states that agree in all that an instruction looks at, PHP aside: D, I, B and B2 are not consulted (10_state.md R32). -/
structure Agree (s u : State) : Prop where
  a : s.a = u.a
  x : s.x = u.x
  y : s.y = u.y
  sp : s.sp = u.sp
  pc : s.pc = u.pc
  mem : s.mem = u.mem
  flag : ∀ f ∈ [Flag.c, .z, .n, .v], s.flag f = u.flag f

/-- `R` relates states in the course of the instruction `i` and `Q` the two answers: `R` lasts through every write that `i` may
make, and each way for `i` to end turns it into `Q`. -/
structure Respects (i : Instr) (R Q : State → State → Prop) : Prop where
  agree : ∀ {s u}, R s u → Agree s u
  status : i = .php → ∀ {s u}, R s u → s.p = u.p
  reg : ∀ {r}, MayWriteReg i r → ∀ {s u} v, R s u → R (s.setReg r v) (u.setReg r v)
  flag : ∀ {f}, i.kind ∈ flagWriters f → ∀ {s u} v, R s u → R (s.setFlag f v) (u.setFlag f v)
  mem : MayWriteMem i → ∀ {s u} a v, R s u → R (writeByte a v s) (writeByte a v u)
  advance : ∀ {s u}, R s u → Q (advance i.length s) (advance i.length u)
  jump : i.kind ∈ pcWriters → ∀ {s u} w, R s u → Q (jump i.length w s) (jump i.length w u)
  stop : MayStop i → ∀ {s u} r, R s u → Q { s with run := r } { u with run := r }

/-- Both runs answer a next state, and the two are related. -/
def BothNext (Q : State → State → Prop) (x y : Result) : Prop := ∃ t u, x = .next t ∧ y = .next u ∧ Q t u

/-- The eight flags of P (10_state.md R27). -/
def allFlags : List Flag := [.c, .z, .i, .d, .b, .b2, .v, .n]

theorem mem_allFlags (f : Flag) : f ∈ allFlags := by cases f <;> decide

/-- The flags of the list take their values in `p`, one after another. -/
def writeFlags (p : Byte) (l : List Flag) (s : State) : State := l.foldl (fun s f => s.setFlag f (getFlag p f)) s

theorem writeFlags_eq (p : Byte) (l : List Flag) (s : State) :
    writeFlags p l s = { s with p := l.foldl (fun q f => putFlag q f (getFlag p f)) s.p } := by
  induction l generalizing s with
  | nil => rfl
  | cons f l ih => exact ih (s.setFlag f (getFlag p f))

/-- Writing all of P is writing its eight flags. -/
theorem writeFlags_allFlags (p : Byte) (s : State) : writeFlags p allFlags s = { s with p := p } := by
  have hp : allFlags.foldl (fun q f => putFlag q f (getFlag p f)) s.p = p :=
    flags_ext fun f => by cases f <;> simp [allFlags, getFlag_put]
  rw [writeFlags_eq, hp]

section
variable {i : Instr} {R Q : State → State → Prop} {s u : State} {o : Operand}
variable (h : Respects i R Q) (k : Kind) (hk : i.kind = k)
include h hk

/-! ### The shared effects -/

theorem Respects.writeReg (r : Reg) {v w : Byte} (hv : v = w) (hR : R s u) (hr : k ∈ regWriters r := by decide) :
    R (s.setReg r v) (u.setReg r w) :=
  hv ▸ h.reg (.inl (hk ▸ hr)) v hR

theorem Respects.writeFlag (f : Flag) (v : Bool) (hR : R s u) (hf : k ∈ flagWriters f := by decide) :
    R (s.setFlag f v) (u.setFlag f v) :=
  h.flag (hk ▸ hf) v hR

theorem Respects.setZN {v w : Byte} (hv : v = w) (hR : R s u)
    (hz : k ∈ flagWriters .z := by decide) (hn : k ∈ flagWriters .n := by decide) : R (setZN v s) (setZN w u) :=
  hv ▸ h.writeFlag k hk .n _ (h.writeFlag k hk .z _ hR hz) hn

/-- A register takes a byte, and Z and N follow it. -/
theorem Respects.result (r : Reg) {v w : Byte} (hv : v = w) (hR : R s u) (hr : k ∈ regWriters r := by decide)
    (hz : k ∈ flagWriters .z := by decide) (hn : k ∈ flagWriters .n := by decide) :
    R (Machine.setZN v (s.setReg r v)) (Machine.setZN w (u.setReg r w)) :=
  h.setZN k hk hv (h.writeReg k hk r hv hR hr) hz hn

theorem Respects.addToA (b : Byte) (hR : R s u) (hadd : k ∈ [Kind.adc, .sbc] := by decide) :
    R (addToA b s) (addToA b u) := by
  have hwrites : ∀ k ∈ [Kind.adc, .sbc], k ∈ regWriters .a ∧ k ∈ flagWriters .c ∧ k ∈ flagWriters .v ∧ k ∈ flagWriters .z ∧
      k ∈ flagWriters .n := by decide
  obtain ⟨ha, hc, hv, hz, hn⟩ := hwrites k hadd
  unfold Machine.addToA
  rw [← (h.agree hR).a, ← (h.agree hR).flag .c (by decide)]
  exact h.setZN k hk rfl (h.writeFlag k hk .v _ (h.writeFlag k hk .c _ (h.writeReg k hk .a rfl hR ha) hc) hv) hz hn

theorem Respects.compareFlags {v w : Byte} (m : Byte) (hv : v = w) (hR : R s u)
    (hcmp : k ∈ [Kind.cmp, .cpx, .cpy] := by decide) : R (compareFlags v m s) (compareFlags w m u) := by
  have hwrites : ∀ k ∈ [Kind.cmp, .cpx, .cpy], k ∈ flagWriters .c ∧ k ∈ flagWriters .z ∧ k ∈ flagWriters .n := by decide
  obtain ⟨hc, hz, hn⟩ := hwrites k hcmp
  exact hv ▸ h.setZN k hk rfl (h.writeFlag k hk .c _ hR hc) hz hn

theorem Respects.bitFlags (m : Byte) (hR : R s u) (hbit : k = .bit := by decide) : R (bitFlags m s) (bitFlags m u) := by
  subst hbit
  unfold Machine.bitFlags
  rw [← (h.agree hR).a]
  exact h.writeFlag .bit hk .v _ (h.writeFlag .bit hk .n _ (h.writeFlag .bit hk .z _ hR))

/-- PLP and RTI write all of P. -/
theorem Respects.writeStatus {p q : Byte} (hp : p = q) (hR : R s u)
    (hall : ∀ f ∈ allFlags, k ∈ flagWriters f := by decide) :
    R { s with p := p } { u with p := q } := by
  subst hp
  have hl : ∀ l s u, R s u → R (writeFlags p l s) (writeFlags p l u) := by
    intro l
    induction l with
    | nil => exact fun _ _ hR => hR
    | cons f l ih => exact fun _ _ hR => ih _ _ (h.writeFlag k hk f _ hR (hall f (mem_allFlags f)))
  rw [← writeFlags_allFlags, ← writeFlags_allFlags]
  exact hl allFlags s u hR

theorem Respects.push8 {v w : Byte} (hv : v = w) (hR : R s u) (hm : k ∈ memWriters := by decide)
    (hsp : k ∈ regWriters .sp := by decide) : R (push8 v s) (push8 w u) := by
  subst hv
  have hmem := h.mem (.inl (hk ▸ hm)) (stackAddress s.sp) v hR
  unfold Machine.push8
  rw [← (h.agree hR).sp]
  exact h.writeReg k hk .sp rfl hmem hsp

theorem Respects.pop8 (hR : R s u) (hsp : k ∈ regWriters .sp := by decide) :
    (pop8 s).1 = (pop8 u).1 ∧ R (pop8 s).2 (pop8 u).2 := by
  have hA := h.agree hR
  refine ⟨by rw [pop8_fst, pop8_fst, hA.sp, hA.mem], h.writeReg k hk .sp (by rw [hA.sp]) hR hsp⟩

theorem Respects.pop16 (hR : R s u) (hsp : k ∈ regWriters .sp := by decide) :
    (pop16 s).1 = (pop16 u).1 ∧ R (pop16 s).2 (pop16 u).2 := by
  obtain ⟨hlo, hR1⟩ := h.pop8 k hk hR hsp
  obtain ⟨hhi, hR2⟩ := h.pop8 k hk hR1 hsp
  exact ⟨cat_congr hhi hlo, hR2⟩

/-! ### The shared operations -/

omit hk in
/-- The end of an instruction that did not write PC. -/
theorem Respects.bothAdvance {n : Nat} (hn : i.length = n) (hR : R s u) :
    BothNext Q (.next (Machine.advance n s)) (.next (Machine.advance n u)) :=
  hn ▸ ⟨_, _, rfl, rfl, h.advance hR⟩

/-- The end of an instruction that wrote PC. -/
theorem Respects.bothJump {n : Nat} {w w' : Word} (hn : i.length = n) (hw : w = w') (hR : R s u)
    (hj : k ∈ pcWriters := by decide) :
    BothNext Q (.next (Machine.jump n w s)) (.next (Machine.jump n w' u)) := by
  subst hn hw
  exact ⟨_, _, rfl, rfl, h.jump (hk ▸ hj) w hR⟩

omit h hk in
theorem effectiveAddress_of_agree (o : Operand) (hA : Agree s u) : effectiveAddress o s = effectiveAddress o u := by
  cases o <;> simp [effectiveAddress, hA.x, hA.y, hA.pc, hA.mem]

omit h hk in
theorem sourceByte_of_agree (o : Operand) (hA : Agree s u) : sourceByte o s = sourceByte o u := by
  cases o <;> simp [sourceByte, effectiveAddress_of_agree _ hA, hA.mem]

omit h hk in
theorem operandByte_of_agree (o : Operand) (hA : Agree s u) : operandByte o s = operandByte o u := by
  cases o <;> simp [operandByte, sourceByte_of_agree _ hA, hA.a]

/-- A mode that the resolver has no rule for is none of the instruction's own: both runs fault. -/
theorem Respects.bothUnresolvable (ho : i.mode = o.mode) (hbad : o.mode ∉ k.modes) (hR : R s u) :
    BothNext Q (unresolvable o s) (unresolvable o u) :=
  ⟨_, _, rfl, rfl, h.stop (.inr (.inr fun hwf => hbad (hk ▸ ho ▸ Instr.mode_mem_of_wellFormed hwf))) _ hR⟩

omit h hk in
/-- A mode without an effective address is none of a kind that has neither an Accumulator nor an Indirect form. -/
theorem mode_notMem_of_noAddress (ha : effectiveAddress o s = none)
    (hm : ∀ m ∈ k.modes, m ≠ Mode.accumulator ∧ m ≠ .indirect) : o.mode ∉ k.modes := by
  intro hmem
  obtain ⟨ea, hea⟩ := effectiveAddress_isSome o s (hm _ hmem)
  simp [ha] at hea

theorem Respects.withSource {f : Byte → State → State} (ho : i.mode = o.mode) (hR : R s u) (hf : ∀ v, R (f v s) (f v u))
    (hm : ∀ m ∈ k.modes, m ≠ Mode.accumulator ∧ m ≠ .indirect := by decide) :
    BothNext Q (withSource o f s) (withSource o f u) := by
  unfold Machine.withSource
  rw [← sourceByte_of_agree o (h.agree hR)]
  cases hv : sourceByte o s with
  | some v => exact h.bothAdvance (congrArg Mode.length ho) (hf v)
  | none =>
    refine h.bothUnresolvable k hk ho (fun hmem => ?_) hR
    obtain ⟨v, hv'⟩ := sourceByte_isSome o s (hm _ hmem)
    simp [hv] at hv'

theorem Respects.storeByte {v w : Byte} (ho : i.mode = o.mode) (hv : v = w) (hR : R s u) (hmem : k ∈ memWriters := by decide)
    (hm : ∀ m ∈ k.modes, m ≠ Mode.accumulator ∧ m ≠ .indirect := by decide) :
    BothNext Q (storeByte o v s) (storeByte o w u) := by
  subst hv
  unfold Machine.storeByte
  rw [← effectiveAddress_of_agree o (h.agree hR)]
  cases hea : effectiveAddress o s with
  | some ea => exact h.bothAdvance (congrArg Mode.length ho) (h.mem (.inl (hk ▸ hmem)) ea v hR)
  | none => exact h.bothUnresolvable k hk ho (mode_notMem_of_noAddress k hea hm) hR

theorem Respects.modifyByte {f : Byte → Byte} (ho : i.mode = o.mode) (hR : R s u)
    (hmod : k ∈ [Kind.inc, .dec] := by decide) : BothNext Q (modifyByte o f s) (modifyByte o f u) := by
  have hwrites : ∀ k ∈ [Kind.inc, .dec], k ∈ memWriters ∧ k ∈ flagWriters .z ∧ k ∈ flagWriters .n ∧
      ∀ m ∈ k.modes, m ≠ Mode.accumulator ∧ m ≠ .indirect := by decide
  obtain ⟨hmem, hz, hn, hm⟩ := hwrites k hmod
  have hA := h.agree hR
  unfold Machine.modifyByte
  rw [← effectiveAddress_of_agree o hA, ← hA.mem]
  cases hea : effectiveAddress o s with
  | some ea =>
    exact h.bothAdvance (congrArg Mode.length ho) (h.setZN k hk rfl (h.mem (.inl (hk ▸ hmem)) ea _ hR) hz hn)
  | none => exact h.bothUnresolvable k hk ho (mode_notMem_of_noAddress k hea hm) hR

/-- A shift puts its result into A in the accumulator form and into memory otherwise (40_fetch_execute_and_addressing.md R111). -/
theorem Respects.writeBack (r : Byte) (ho : i.mode = o.mode) (hR : R s u) (hs : k ∈ shiftKinds) :
    R (writeBack o r s) (writeBack o r u) := by
  by_cases hacc : o = .accumulator
  case pos =>
    subst hacc
    exact h.reg (.inr ⟨rfl, hk ▸ hs, ho⟩) r hR
  case neg =>
    have hmode : i.mode ≠ .accumulator := by rwa [ho, Ne, o.mode_eq_accumulator_iff]
    cases hea : effectiveAddress o s with
    | some ea =>
      rw [writeBack_memory hea, writeBack_memory ((effectiveAddress_of_agree o (h.agree hR)).symm.trans hea)]
      exact h.mem (.inr ⟨hk ▸ hs, hmode⟩) ea r hR
    | none =>
      have hkeep : ∀ t, effectiveAddress o t = none → Machine.writeBack o r t = t := by
        intro t ht
        cases o <;> simp_all [Machine.writeBack, effectiveAddress]
      rw [hkeep s hea, hkeep u ((effectiveAddress_of_agree o (h.agree hR)).symm.trans hea)]
      exact hR

theorem Respects.shiftOperand {f : Byte → Bool → Byte × Bool} (ho : i.mode = o.mode) (hR : R s u)
    (hs : k ∈ shiftKinds := by decide) : BothNext Q (shiftOperand o f s) (shiftOperand o f u) := by
  have hwrites : ∀ k ∈ shiftKinds, k ∈ flagWriters .c ∧ k ∈ flagWriters .z ∧ k ∈ flagWriters .n ∧ Mode.indirect ∉ k.modes := by
    decide
  obtain ⟨hc, hz, hn, hm⟩ := hwrites k hs
  have hA := h.agree hR
  unfold Machine.shiftOperand
  rw [← operandByte_of_agree o hA, ← hA.flag .c (by decide)]
  cases hv : operandByte o s with
  | some v =>
    exact h.bothAdvance (congrArg Mode.length ho)
      (h.setZN k hk rfl (h.writeBack k hk _ ho (h.writeFlag k hk .c _ hR hc) hs) hz hn)
  | none =>
    refine h.bothUnresolvable k hk ho (fun hmem => ?_) hR
    obtain ⟨v, hv'⟩ := operandByte_isSome o s (fun e => hm (e ▸ hmem))
    simp [hv] at hv'

omit hk in
theorem Respects.implied {f : State → State} (hn : i.length = 1) (hf : R (f s) (f u)) :
    BothNext Q (implied f s) (implied f u) :=
  h.bothAdvance hn hf

theorem Respects.branch {c c' : Bool} {off : Byte} (hn : i.length = 2) (hc : c = c') (hR : R s u)
    (hj : k ∈ pcWriters := by decide) : BothNext Q (branch c off s) (branch c' off u) := by
  subst hc
  unfold Machine.branch
  cases c with
  | true => exact h.bothJump k hk hn (by rw [(h.agree hR).pc]) hR hj
  | false => exact h.bothAdvance hn hR

end

/-! ### All instructions -/

/-- JMP to an address that the resolver gives (46_jumps_calls_returns.md R144). -/
theorem execJmp_of_address {o : Operand} {s : State} {ea : Word} (h : effectiveAddress o s = some ea) :
    execJmp o s = .next (jump o.length ea s) := by
  cases o <;> simp_all [execJmp, effectiveAddress]

theorem Respects.execJmp {R Q : State → State → Prop} {s u : State} {o : Operand} (h : Respects (.jmp o) R Q) (hR : R s u) :
    BothNext Q (execJmp o s) (execJmp o u) := by
  have hA := h.agree hR
  cases hea : effectiveAddress o s with
  | some ea =>
    rw [execJmp_of_address hea, execJmp_of_address ((effectiveAddress_of_agree o hA).symm.trans hea)]
    exact h.bothJump .jmp rfl rfl rfl hR
  | none =>
    cases o
    case indirect ptr => exact h.bothJump .jmp rfl rfl (by rw [hA.mem]) hR
    case accumulator => exact h.bothUnresolvable .jmp rfl rfl (by decide) hR
    all_goals exact absurd hea (by simp [effectiveAddress])

theorem execPla_eq (s : State) :
    execPla s = .next (advance 1 (setZN (pop8 s).1 ((pop8 s).2.setReg .a (pop8 s).1))) := rfl

theorem execPlp_eq (s : State) : execPlp s = .next (advance 1 { (pop8 s).2 with p := (pop8 s).1 }) := rfl

theorem execRts_eq (s : State) : execRts s = .next (jump 1 ((pop16 s).1 + 1) (pop16 s).2) := rfl

/-- RTI once it has restored P and before it pops PC (46_jumps_calls_returns.md R148). -/
def statusRestored (s : State) : State := { (pop8 s).2 with p := returnStatus (pop8 s).1 }

theorem execRti_eq (s : State) :
    execRti s = .next (jump 1 (pop16 (statusRestored s)).1 (pop16 (statusRestored s)).2) := rfl

theorem Respects.execRti {R Q : State → State → Prop} {s u : State} (h : Respects .rti R Q) (hR : R s u) :
    BothNext Q (execRti s) (execRti u) := by
  obtain ⟨hp, hR1⟩ := h.pop8 .rti rfl hR
  obtain ⟨hw, hR3⟩ := h.pop16 .rti rfl (h.writeStatus .rti rfl (congrArg returnStatus hp) hR1)
  rw [execRti_eq, execRti_eq]
  exact h.bothJump .rti rfl rfl hw hR3

theorem Respects.execIllegal {R Q : State → State → Prop} {s u : State} {op : Byte} (h : Respects (.illegal op) R Q)
    (hR : R s u) : BothNext Q (execIllegal op s) (execIllegal op u) := by
  unfold Machine.execIllegal
  rw [(h.agree hR).pc]
  exact ⟨_, _, rfl, rfl, h.stop (.inr (.inl rfl)) _ hR⟩

/-- Two related states run side by side both answer a next state, and the answers are related. -/
theorem exec_related {i : Instr} {R Q : State → State → Prop} (h : Respects i R Q) {s u : State} (hR : R s u) :
    BothNext Q (exec i s) (exec i u) := by
  have hA := h.agree hR
  have hflag := hA.flag
  unfold exec
  cases i with
  | lda o => exact h.withSource .lda rfl rfl hR fun _ => h.result .lda rfl .a rfl hR
  | ldx o => exact h.withSource .ldx rfl rfl hR fun _ => h.result .ldx rfl .x rfl hR
  | ldy o => exact h.withSource .ldy rfl rfl hR fun _ => h.result .ldy rfl .y rfl hR
  | sta o => exact h.storeByte .sta rfl rfl hA.a hR
  | stx o => exact h.storeByte .stx rfl rfl hA.x hR
  | sty o => exact h.storeByte .sty rfl rfl hA.y hR
  | adc o => exact h.withSource .adc rfl rfl hR fun m => h.addToA .adc rfl m hR
  | sbc o => exact h.withSource .sbc rfl rfl hR fun m => h.addToA .sbc rfl (~~~ m) hR
  | and o => exact h.withSource .and rfl rfl hR fun m => h.result .and rfl .a (congrArg (· &&& m) hA.a) hR
  | ora o => exact h.withSource .ora rfl rfl hR fun m => h.result .ora rfl .a (congrArg (· ||| m) hA.a) hR
  | eor o => exact h.withSource .eor rfl rfl hR fun m => h.result .eor rfl .a (congrArg (· ^^^ m) hA.a) hR
  | asl o => exact h.shiftOperand .asl rfl rfl hR
  | lsr o => exact h.shiftOperand .lsr rfl rfl hR
  | rol o => exact h.shiftOperand .rol rfl rfl hR
  | ror o => exact h.shiftOperand .ror rfl rfl hR
  | cmp o => exact h.withSource .cmp rfl rfl hR fun m => h.compareFlags .cmp rfl m hA.a hR
  | cpx o => exact h.withSource .cpx rfl rfl hR fun m => h.compareFlags .cpx rfl m hA.x hR
  | cpy o => exact h.withSource .cpy rfl rfl hR fun m => h.compareFlags .cpy rfl m hA.y hR
  | bcc off => exact h.branch .bcc rfl rfl (congrArg not (hflag .c (by decide))) hR
  | bcs off => exact h.branch .bcs rfl rfl (hflag .c (by decide)) hR
  | beq off => exact h.branch .beq rfl rfl (hflag .z (by decide)) hR
  | bmi off => exact h.branch .bmi rfl rfl (hflag .n (by decide)) hR
  | bne off => exact h.branch .bne rfl rfl (congrArg not (hflag .z (by decide))) hR
  | bpl off => exact h.branch .bpl rfl rfl (congrArg not (hflag .n (by decide))) hR
  | bvc off => exact h.branch .bvc rfl rfl (congrArg not (hflag .v (by decide))) hR
  | bvs off => exact h.branch .bvs rfl rfl (hflag .v (by decide)) hR
  | jmp o => exact h.execJmp hR
  | jsr w =>
    have hret : s.pc + 1 = u.pc + 1 := by rw [hA.pc]
    exact h.bothJump .jsr rfl rfl rfl
      (h.push8 .jsr rfl (congrArg loByte hret) (h.push8 .jsr rfl (congrArg hiByte hret) hR))
  | rts =>
    obtain ⟨hw, hR1⟩ := h.pop16 .rts rfl hR
    dsimp only
    rw [execRts_eq, execRts_eq]
    exact h.bothJump .rts rfl rfl (congrArg (· + 1) hw) hR1
  | rti => exact h.execRti hR
  | inc o => exact h.modifyByte .inc rfl rfl hR
  | dec o => exact h.modifyByte .dec rfl rfl hR
  | inx => exact h.implied rfl (h.result .inx rfl .x (congrArg (· + 1) hA.x) hR)
  | iny => exact h.implied rfl (h.result .iny rfl .y (congrArg (· + 1) hA.y) hR)
  | dex => exact h.implied rfl (h.result .dex rfl .x (congrArg (· - 1) hA.x) hR)
  | dey => exact h.implied rfl (h.result .dey rfl .y (congrArg (· - 1) hA.y) hR)
  | tax => exact h.implied rfl (h.result .tax rfl .x hA.a hR)
  | tay => exact h.implied rfl (h.result .tay rfl .y hA.a hR)
  | tsx => exact h.implied rfl (h.result .tsx rfl .x hA.sp hR)
  | txa => exact h.implied rfl (h.result .txa rfl .a hA.x hR)
  | txs => exact h.implied rfl (h.writeReg .txs rfl .sp hA.x hR)
  | tya => exact h.implied rfl (h.result .tya rfl .a hA.y hR)
  | pha => exact h.implied rfl (h.push8 .pha rfl hA.a hR)
  | php => exact h.implied rfl (h.push8 .php rfl (congrArg (· ||| 0x30) (h.status rfl hR)) hR)
  | pla =>
    obtain ⟨hv, hR1⟩ := h.pop8 .pla rfl hR
    dsimp only
    rw [execPla_eq, execPla_eq]
    exact h.bothAdvance rfl (h.result .pla rfl .a hv hR1)
  | plp =>
    obtain ⟨hv, hR1⟩ := h.pop8 .plp rfl hR
    dsimp only
    rw [execPlp_eq, execPlp_eq]
    exact h.bothAdvance rfl (h.writeStatus .plp rfl hv hR1)
  | clc => exact h.implied rfl (h.writeFlag .clc rfl .c false hR)
  | cld => exact h.implied rfl (h.writeFlag .cld rfl .d false hR)
  | cli => exact h.implied rfl (h.writeFlag .cli rfl .i false hR)
  | clv => exact h.implied rfl (h.writeFlag .clv rfl .v false hR)
  | sec => exact h.implied rfl (h.writeFlag .sec rfl .c true hR)
  | sed => exact h.implied rfl (h.writeFlag .sed rfl .d true hR)
  | sei => exact h.implied rfl (h.writeFlag .sei rfl .i true hR)
  | bit o => exact h.withSource .bit rfl rfl hR fun m => h.bitFlags .bit rfl m hR
  | nop => exact h.implied rfl hR
  | brk => exact ⟨_, _, rfl, rfl, h.stop (.inl rfl) .halted hR⟩
  | illegal op => exact h.execIllegal hR

end Sys2Proof.Machine
end

section
/-! PROOFS. The rules of the whole machine: who writes which register, which flag and memory, where PC goes, what ends the loop,
and what the PC-advance rule and the inert flags cannot change. Each follows from `exec_related`. -/

namespace Sys2Proof.Machine

/-! ### What a register, a flag and a byte of memory read after each write -/

@[simp] theorem State.setFlag_reg (s : State) (f : Flag) (v : Bool) (r : Reg) : (s.setFlag f v).reg r = s.reg r := by
  cases r <;> rfl
@[simp] theorem setZN_reg (v : Byte) (s : State) (r : Reg) : (setZN v s).reg r = s.reg r := by cases r <;> rfl
@[simp] theorem writeByte_reg (a : Word) (v : Byte) (s : State) (r : Reg) : (writeByte a v s).reg r = s.reg r := by
  cases r <;> rfl
@[simp] theorem advance_reg (n : Nat) (s : State) (r : Reg) : (advance n s).reg r = s.reg r := by cases r <;> rfl
@[simp] theorem jump_reg (n : Nat) (w : Word) (s : State) (r : Reg) : (jump n w s).reg r = s.reg r := by cases r <;> rfl
@[simp] theorem stop_reg (x : RunState) (s : State) (r : Reg) : ({ s with run := x } : State).reg r = s.reg r := by
  cases r <;> rfl

@[simp] theorem State.setReg_flag (s : State) (r : Reg) (v : Byte) (f : Flag) : (s.setReg r v).flag f = s.flag f := by
  cases r <;> rfl
@[simp] theorem State.setReg_mem (s : State) (r : Reg) (v : Byte) : (s.setReg r v).mem = s.mem := by cases r <;> rfl
@[simp] theorem State.setReg_pc (s : State) (r : Reg) (v : Byte) : (s.setReg r v).pc = s.pc := by cases r <;> rfl

/-! ### One run -/

/-- `P` lasts through every write that the instruction `i` may make, and each way for `i` to end turns it into `Q`. -/
structure Keeps (i : Instr) (P Q : State → Prop) : Prop where
  reg : ∀ {r}, MayWriteReg i r → ∀ {s} v, P s → P (s.setReg r v)
  flag : ∀ {f}, i.kind ∈ flagWriters f → ∀ {s} v, P s → P (s.setFlag f v)
  mem : MayWriteMem i → ∀ {s} a v, P s → P (writeByte a v s)
  advance : ∀ {s}, P s → Q (advance i.length s)
  jump : i.kind ∈ pcWriters → ∀ {s} w, P s → Q (jump i.length w s)
  stop : MayStop i → ∀ {s} r, P s → Q { s with run := r }

theorem Agree.refl (s : State) : Agree s s := ⟨rfl, rfl, rfl, rfl, rfl, rfl, fun _ _ => rfl⟩

/-- One run is two runs from the same state. -/
theorem Keeps.respects {i : Instr} {P Q : State → Prop} (h : Keeps i P Q) :
    Respects i (fun s u => s = u ∧ P s) (fun t u => t = u ∧ Q t) where
  agree := by rintro s _ ⟨rfl, -⟩; exact Agree.refl s
  status := by rintro - s _ ⟨rfl, -⟩; rfl
  reg := by rintro r hr s _ v ⟨rfl, hs⟩; exact ⟨rfl, h.reg hr v hs⟩
  flag := by rintro f hf s _ v ⟨rfl, hs⟩; exact ⟨rfl, h.flag hf v hs⟩
  mem := by rintro hm s _ a v ⟨rfl, hs⟩; exact ⟨rfl, h.mem hm a v hs⟩
  advance := by rintro s _ ⟨rfl, hs⟩; exact ⟨rfl, h.advance hs⟩
  jump := by rintro hj s _ w ⟨rfl, hs⟩; exact ⟨rfl, h.jump hj w hs⟩
  stop := by rintro hst s _ r ⟨rfl, hs⟩; exact ⟨rfl, h.stop hst r hs⟩

theorem exec_keeps {i : Instr} {P Q : State → Prop} (h : Keeps i P Q) {s t : State} (hs : P s) (ht : exec i s = .next t) :
    Q t := by
  obtain ⟨t', -, ht', -, -, hQ⟩ := exec_related h.respects (u := s) ⟨rfl, hs⟩
  exact Host.Outcome.next.inj (ht.symm.trans ht') ▸ hQ

/-- Every instruction answers a next state (60_exceptions.md R175). -/
theorem exec_next (i : Instr) (s : State) : ∃ t, exec i s = .next t := by
  have h : Keeps i (fun _ => True) (fun _ => True) := by constructor <;> intros <;> trivial
  obtain ⟨t, -, ht, -⟩ := exec_related h.respects (s := s) (u := s) ⟨rfl, trivial⟩
  exact ⟨t, ht⟩

/-- BRK and the ILLEGAL bytes have no operand byte (30_encoding.md R80, R82). -/
theorem length_of_mayStop {i : Instr} (hwf : i.WellFormed) (hst : MayStop i) : i.length = 1 := by
  cases i
  case brk | illegal => rfl
  all_goals exact absurd hst (by simp [MayStop, hwf, Instr.kind])

section
variable {i : Instr} {s t : State} (ht : exec i s = .next t)
include ht

/-- A register that the instruction may not write stays (10_state.md R18, R22). -/
theorem exec_reg {r : Reg} (hr : ¬ MayWriteReg i r) : t.reg r = s.reg r := by
  have h : Keeps i (fun u => u.reg r = s.reg r) (fun u => u.reg r = s.reg r) :=
    { reg := fun {r'} hr' {u} v hu => by rwa [u.setReg_reg, if_neg (by rintro rfl; exact hr hr')]
      flag := fun _ _ _ hu => by rwa [State.setFlag_reg]
      mem := fun _ _ _ _ hu => by rwa [writeByte_reg]
      advance := fun hu => by rwa [advance_reg]
      jump := fun _ _ _ hu => by rwa [jump_reg]
      stop := fun _ _ _ hu => by rwa [stop_reg] }
  exact exec_keeps h rfl ht

/-- A flag that the instruction's kind does not write stays (10_state.md R31). -/
theorem exec_flag {f : Flag} (hf : i.kind ∉ flagWriters f) : t.flag f = s.flag f := by
  have h : Keeps i (fun u => u.flag f = s.flag f) (fun u => u.flag f = s.flag f) :=
    { reg := fun _ _ _ hu => by rwa [State.setReg_flag]
      flag := fun {f'} hf' {u} v hu => by rwa [setFlag_flag, if_neg (by rintro rfl; exact hf hf')]
      mem := fun _ _ _ _ hu => hu
      advance := fun hu => hu
      jump := fun _ _ _ hu => hu
      stop := fun _ _ _ hu => hu }
  exact exec_keeps h rfl ht

/-- Memory that the instruction may not write stays (20_memory.md R46). -/
theorem exec_mem (hm : ¬ MayWriteMem i) : t.mem = s.mem := by
  have h : Keeps i (fun u => u.mem = s.mem) (fun u => u.mem = s.mem) :=
    { reg := fun _ _ _ hu => by rwa [State.setReg_mem]
      flag := fun _ _ _ hu => hu
      mem := fun hm' => absurd hm' hm
      advance := fun hu => hu
      jump := fun _ _ _ hu => hu
      stop := fun _ _ _ hu => hu }
  exact exec_keeps h rfl ht

/-- Every instruction keeps memory's canonical form (log 3). -/
theorem exec_wf (hs : s.mem.wf = true) : t.mem.wf = true := by
  have h : Keeps i (fun u => u.mem.wf = true) (fun u => u.mem.wf = true) :=
    { reg := fun _ _ _ hu => by rwa [State.setReg_mem]
      flag := fun _ _ _ hu => hu
      mem := fun _ _ a v hu => wf_writeByte a v _ hu
      advance := fun hu => hu
      jump := fun _ _ _ hu => hu
      stop := fun _ _ _ hu => hu }
  exact exec_keeps h hs ht

/-- No instruction touches the model's own fields. -/
theorem exec_keepsHost : KeepsHost s t := by
  have h : Keeps i (KeepsHost s) (KeepsHost s) :=
    { reg := fun {r} _ _ _ hu => by cases r <;> exact hu
      flag := fun _ _ _ hu => hu
      mem := fun _ _ _ _ hu => hu
      advance := fun hu => hu
      jump := fun _ _ _ hu => hu
      stop := fun _ _ _ hu => hu }
  exact exec_keeps h ⟨rfl, rfl, rfl, rfl⟩ ht

/-- An instruction that may not end the loop keeps `run` (60_exceptions.md R175, R178). -/
theorem exec_keepsLoop (hstop : ¬ MayStop i) : KeepsLoop s t := by
  have h : Keeps i (KeepsLoop s) (KeepsLoop s) :=
    { reg := fun {r} _ _ _ hu => by cases r <;> exact hu
      flag := fun _ _ _ hu => hu
      mem := fun _ _ _ _ hu => hu
      advance := fun hu => hu
      jump := fun _ _ _ hu => hu
      stop := fun hst => absurd hst hstop }
  exact exec_keeps h ⟨rfl, rfl, rfl, rfl, rfl⟩ ht

/-- An instruction that does not write PC leaves it past the operand bytes (40_fetch_execute_and_addressing.md R95). -/
theorem exec_advanced (hwf : i.WellFormed) (hpc : i.kind ∉ pcWriters) : Advanced i.length s t := by
  have h : Keeps i (fun u => u.pc = s.pc) (Advanced i.length s) :=
    { reg := fun _ _ _ hu => by rwa [State.setReg_pc]
      flag := fun _ _ _ hu => hu
      mem := fun _ _ _ _ hu => hu
      advance := fun hu => congrArg (· + BitVec.ofNat 16 (i.length - 1)) hu
      jump := fun hj => absurd hj hpc
      stop := fun hst _ _ hu => by
        rw [Advanced, length_of_mayStop hwf hst]
        exact hu.trans (BitVec.add_zero _).symm }
  exact exec_keeps h rfl ht

end

/-- Settles O52: a register that no rule lets the instruction write stays. -/
theorem registersHaveOnlyTheirWriters : Obligations.RegistersHaveOnlyTheirWriters :=
  fun _ _ _ _ ht hne => Classical.byContradiction fun hr => hne (exec_reg ht hr)

/-- Settles O53: a flag that no rule lets the instruction write stays. -/
theorem flagsHaveOnlyTheirWriters : Obligations.FlagsHaveOnlyTheirWriters :=
  fun _ _ _ _ ht hne => Classical.byContradiction fun hf => hne (exec_flag ht hf)

/-- Settles O54: memory that no rule lets the instruction write stays. -/
theorem memoryHasOnlyItsWriters : Obligations.MemoryHasOnlyItsWriters :=
  fun _ _ _ a ht hne => Classical.byContradiction fun hm => hne (congrArg (·.read a) (exec_mem ht hm))

/-- Settles O55: PC is not written, and the instruction ends with the PC advance, or at once when it is one byte long. -/
theorem onlyControlTransfersSetPc : Obligations.OnlyControlTransfersSetPc :=
  fun _ _ _ hwf hpc ht => exec_advanced ht hwf hpc

theorem not_mayStop {i : Instr} (hwf : i.WellFormed) (hb : i.kind ≠ .brk) (hi : i.kind ≠ .illegal) : ¬ MayStop i := by
  simp [MayStop, hwf, hb, hi]

/-- Settles O58: every instruction answers a next state, and only BRK, the ILLEGAL bytes and terms without an encoding may
stop. -/
theorem noInstructionRaisesAnException : Obligations.NoInstructionRaisesAnException := by
  intro i s hwf hbrk hill
  obtain ⟨t, ht⟩ := exec_next i s
  exact ⟨t, ht, exec_keepsLoop ht (not_mayStop hwf (mt Instr.eq_brk_of_kind hbrk) hill)⟩

/-! ### Two runs under the two PC-advance rules -/

/-- The states of two runs that differ in the PC-advance rule, PC being the baseline `base` in both. -/
def DifferInRule (base : Word) (s u : State) : Prop :=
  s.pcRule = .byKind ∧ s.pc = base ∧ u = { s with pcRule := .byCompare }

/-- The answers of two such runs: the same, but for an instruction that wrote the baseline to PC. -/
def SameButBaseline (i : Instr) (base : Word) (t u : State) : Prop :=
  { u with pcRule := .byKind, pc := t.pc } = t ∧
  (u.pc = t.pc ∨ (i.kind ∈ pcWriters ∧ t.pc = base ∧ u.pc = base + BitVec.ofNat 16 (i.length - 1)))

theorem sameButBaseline_of_differInRule {i : Instr} {base : Word} {t u : State} (h : t.pcRule = .byKind)
    (hu : u = { t with pcRule := .byCompare }) : SameButBaseline i base t u := by
  subst hu
  exact ⟨by rw [← h], .inl rfl⟩

theorem pcRule_respects (i : Instr) (base : Word) : Respects i (DifferInRule base) (SameButBaseline i base) where
  agree := by rintro s _ ⟨-, -, rfl⟩; exact ⟨rfl, rfl, rfl, rfl, rfl, rfl, fun _ _ => rfl⟩
  status := by rintro - s _ ⟨-, -, rfl⟩; rfl
  reg := by rintro (_ | _ | _ | _) - s _ v ⟨hr, hpc, rfl⟩ <;> exact ⟨hr, hpc, rfl⟩
  flag := by rintro f - s _ v ⟨hr, hpc, rfl⟩; exact ⟨hr, hpc, rfl⟩
  mem := by rintro - s _ a v ⟨hr, hpc, rfl⟩; exact ⟨hr, hpc, rfl⟩
  advance := by rintro s _ ⟨hr, -, rfl⟩; exact sameButBaseline_of_differInRule hr rfl
  jump := by
    rintro hj s _ w ⟨hr, rfl, rfl⟩
    refine ⟨by rw [← hr]; rfl, ?_⟩
    by_cases hw : w = s.pc
    · exact .inr ⟨hj, by simp [hr, nextPc, hw], by simp [nextPc, hw]⟩
    · exact .inl (by simp [hr, nextPc, hw])
  stop := by rintro - s _ r ⟨hr, -, rfl⟩; exact sameButBaseline_of_differInRule hr rfl

/-- Settles O56: the rule is looked at by a jump only, and matters there only when the target is the baseline. -/
theorem pcRulesDifferOnlyAtTheBaseline : Obligations.PcRulesDifferOnlyAtTheBaseline := by
  intro i s _
  exact exec_related (pcRule_respects i s.pc) ⟨rfl, rfl, rfl⟩

/-! ### Two runs that differ in an inert flag -/

/-- The states of two runs that differ in the flag `f` of P at most. -/
def DifferInFlag (f : Flag) (s u : State) : Prop := ∃ p, u = { s with p := p } ∧ ∀ g, g ≠ f → getFlag p g = s.flag g

theorem DifferInFlag.setFlag_eq {f : Flag} {t u : State} (h : DifferInFlag f t u) : u.setFlag f (t.flag f) = t := by
  obtain ⟨p, rfl, hp⟩ := h
  have hput : putFlag p f (t.flag f) = t.p := by
    refine flags_ext fun g => ?_
    by_cases hg : g = f
    · simp [hg, State.flag]
    · simp [getFlag_put, hg, hp g hg, State.flag]
  exact congrArg (fun q => ({ t with p := q } : State)) hput

theorem differInFlag_setFlag (f : Flag) (b : Bool) (s : State) : DifferInFlag f s (s.setFlag f b) :=
  ⟨_, rfl, fun g hg => getFlag_put_other s.p f g b hg⟩

theorem inertFlag_respects {i : Instr} {f : Flag} (hf : f ∉ [Flag.c, .z, .n, .v]) (hi : i ≠ .php) :
    Respects i (DifferInFlag f) (DifferInFlag f) where
  agree := by
    rintro s _ ⟨p, rfl, hp⟩
    exact ⟨rfl, rfl, rfl, rfl, rfl, rfl, fun g hg => (hp g (fun e => hf (e ▸ hg))).symm⟩
  status := fun h => absurd h hi
  reg := by rintro (_ | _ | _ | _) - s _ v ⟨p, rfl, hp⟩ <;> exact ⟨p, rfl, hp⟩
  flag := by
    rintro f' - s _ v ⟨p, rfl, hp⟩
    refine ⟨putFlag p f' v, rfl, fun g hg => ?_⟩
    rw [getFlag_put, setFlag_flag, hp g hg]
  mem := by rintro - s _ a v ⟨p, rfl, hp⟩; exact ⟨p, rfl, hp⟩
  advance := by rintro s _ ⟨p, rfl, hp⟩; exact ⟨p, rfl, hp⟩
  jump := by rintro - s _ w ⟨p, rfl, hp⟩; exact ⟨p, rfl, hp⟩
  stop := by rintro - s _ r ⟨p, rfl, hp⟩; exact ⟨p, rfl, hp⟩

/-- Settles O57: PHP aside, no instruction looks at another flag than C, Z, N and V. -/
theorem inertFlagsDoNotMatter : Obligations.InertFlagsDoNotMatter := by
  intro i s t f b hf hi ht
  have hinert : f ∉ [Flag.c, .z, .n, .v] := by rcases hf with rfl | rfl | rfl | rfl <;> decide
  obtain ⟨t', u, ht', hu, hR⟩ := exec_related (inertFlag_respects hinert hi) (differInFlag_setFlag f b s)
  obtain rfl : t' = t := Host.Outcome.next.inj (ht'.symm.trans ht)
  exact ⟨u, hu, hR.setFlag_eq⟩

end Sys2Proof.Machine
end

section
/-! PROOFS. The opcode bytes of a kind: the encoder's byte for each of its modes (30_encoding.md R72 to R81). -/

namespace Sys2Proof.Machine

/-- A documented kind has one opcode byte for each of its modes, the encoder's, and no other. -/
theorem hasOpcodes_of_modes {k : Kind} {rows : List (Byte × Mode)} (hk : k ≠ .illegal := by decide)
    (hrows : k.modes.map (fun m => (opcodeOf k m, m)) = rows.map (fun r => (some r.1, r.2)) := by decide +kernel) :
    HasOpcodes k rows := by
  constructor
  · rintro op rfl
    have hmem : (some op, (descriptor op).mode) ∈ rows.map (fun r => (some r.1, r.2)) := by
      rw [← hrows, ← opcodeOf_descriptor hk]
      exact List.mem_map_of_mem (descriptor_mode op).1
    obtain ⟨r, hr, hop, hmode⟩ : ∃ r ∈ rows, r.1 = op ∧ r.2 = (descriptor op).mode := by simpa using hmem
    rw [← hmode]
    exact hop ▸ hr
  · intro r hr
    have hmem : (some r.1, r.2) ∈ k.modes.map (fun m => (opcodeOf k m, m)) := by
      rw [hrows]
      exact List.mem_map_of_mem (f := fun r : Byte × Mode => (some r.1, r.2)) hr
    obtain ⟨hop, -⟩ : opcodeOf k r.2 = some r.1 ∧ r.2 ∈ k.modes := by
      obtain ⟨m, hm, heq⟩ := List.mem_map.mp hmem
      obtain ⟨hop, rfl⟩ := Prod.mk.inj heq
      exact ⟨hop, hm⟩
    exact descriptor_opcodeOf hop

theorem hasOpcodes_brk : HasOpcodes .brk [(0x00, .implied)] := hasOpcodes_of_modes

end Sys2Proof.Machine
end

section
/-! PROOFS. The step of a running core: the observer's call, the fetch, and the three ways for it to end
(40_fetch_execute_and_addressing.md section 1; 60_exceptions.md sections 1 and 4). -/

namespace Sys2Proof.Machine

/-! ### The observer -/

theorem KeepsLoop.trans {s t u : State} (h : KeepsLoop s t) (h' : KeepsLoop t u) : KeepsLoop s u := by
  obtain ⟨hrun, hrule, hobs, hhost, hreply⟩ := h
  obtain ⟨hrun', hrule', hobs', hhost', hreply'⟩ := h'
  exact ⟨hrun'.trans hrun, hrule'.trans hrule, hobs'.trans hobs, hhost'.trans hhost, hreply'.trans hreply⟩

theorem applyEdit_keepsLoop (s : State) (e : ObserverEdit) : KeepsLoop s (applyEdit s e) := by
  cases e <;> exact ⟨rfl, rfl, rfl, rfl, rfl⟩

/-- Settles O19: each change of a call keeps them. -/
theorem observerCannotStopTheLoop : Obligations.ObserverCannotStopTheLoop := by
  intro call
  induction call with
  | nil => exact fun _ => ⟨rfl, rfl, rfl, rfl, rfl⟩
  | cons e call ih => exact fun s => (applyEdit_keepsLoop s e).trans (ih (applyEdit s e))

/-- Step 1 uses up one call of the observer and keeps `run` and the host's fields (40_fetch_execute_and_addressing.md R90). -/
theorem observe_keepsLoop (s : State) : KeepsLoop { s with observer := s.observer.tail } (observe s) := by
  unfold observe
  split
  case h_1 h => exact ⟨rfl, rfl, by simp [h], rfl, rfl⟩
  case h_2 call calls h =>
    rw [h]
    exact observerCannotStopTheLoop call { s with observer := calls }

theorem observe_run (s : State) : (observe s).run = s.run := (observe_keepsLoop s).1

theorem observe_wf (s : State) (h : s.mem.wf = true) : (observe s).mem.wf = true := by
  unfold observe
  split
  · exact h
  · exact wf_applyCall _ _ h

/-! ### The fetch -/

theorem fetchInstr_kind (s : State) : (fetchInstr s).kind = (descriptor (s.mem.read s.pc)).kind := instrOf_kind _ _ _

/-- The kind BRK is the opcode byte 0x00 (30_encoding.md R80). -/
theorem descriptor_brk (op : Byte) : (descriptor op).kind = .brk ↔ op = 0x00 := by
  constructor
  · intro h
    have hmem := hasOpcodes_brk.1 op h
    exact (Prod.mk.inj (List.mem_singleton.mp hmem)).1
  · rintro rfl
    exact (hasOpcodes_brk.2 _ (List.mem_singleton_self _)).1

theorem fetchInstr_brk {s : State} (h : s.mem.read s.pc = 0x00) : fetchInstr s = .brk := by
  rw [fetchInstr, instrOf, (descriptor_brk _).mpr h, instrWith]

theorem fetchInstr_illegal {s : State} (h : s.mem.read s.pc ∈ illegalBytes) :
    fetchInstr s = .illegal (s.mem.read s.pc) := by
  rw [fetchInstr, instrOf, (descriptor_illegal _).mpr h, instrWith]

/-- A documented opcode byte but BRK's does not end the loop (60_exceptions.md R175). -/
theorem fetchInstr_not_mayStop {s : State} (hb : s.mem.read s.pc ≠ 0x00) (hi : s.mem.read s.pc ∉ illegalBytes) :
    ¬ MayStop (fetchInstr s) := by
  refine not_mayStop (fetchInstr_wellFormed s) ?_ ?_
  · rwa [fetchInstr_kind, Ne, descriptor_brk]
  · rwa [fetchInstr_kind, Ne, descriptor_illegal]

/-- Settles O7: the decoder reads the fetched instruction from the bytes at PC. -/
theorem stepRunsTheDecodedInstruction : Obligations.StepRunsTheDecodedInstruction := by
  intro s i rest hrun hdecode
  obtain ⟨rest', hfetch⟩ := decode_fetched (observe s)
  obtain ⟨rfl, -⟩ := Prod.mk.inj (Except.ok.inj (hdecode.symm.trans hfetch))
  exact ⟨fetchInstr_wellFormed _, step_running hrun⟩

/-! ### How the step ends -/

theorem runInstr_brk {s : State} (h : s.mem.read s.pc = 0x00) : runInstr s = .next { s with pc := s.pc + 1, run := .halted } := by
  rw [runInstr, fetchInstr_brk h]
  rfl

theorem runInstr_illegal {s : State} (h : s.mem.read s.pc ∈ illegalBytes) :
    runInstr s = .next { s with pc := s.pc + 1, run := .faulted (.illegalOpcode (s.mem.read s.pc) s.pc) } := by
  have haddr : s.pc + 1 - 1 = s.pc := BitVec.add_sub_cancel s.pc 1
  rw [runInstr, fetchInstr_illegal h, exec, execIllegal, haddr]
  rfl

/-- The instruction at PC halts the machine, faults it, or keeps `run`, as its opcode byte says
(40_fetch_execute_and_addressing.md R93, R98). -/
theorem runInstr_run {s t : State} (h : runInstr s = .next t) :
    (s.mem.read s.pc = 0x00 → t.run = .halted) ∧
    (s.mem.read s.pc ∈ illegalBytes → t.run = .faulted (.illegalOpcode (s.mem.read s.pc) s.pc)) ∧
    (s.mem.read s.pc ≠ 0x00 → s.mem.read s.pc ∉ illegalBytes → t.run = s.run) := by
  refine ⟨fun hb => ?brk, fun hi => ?illegal, fun hb hi => ?documented⟩
  case brk => exact Host.Outcome.next.inj (h.symm.trans (runInstr_brk hb)) ▸ rfl
  case illegal => rw [Host.Outcome.next.inj (h.symm.trans (runInstr_illegal hi))]
  case documented => exact (exec_keepsLoop h (fetchInstr_not_mayStop hb hi)).1

/-- Settles O8: the observer's call keeps what the clauses speak of, and the instruction's opcode byte decides how the step
ends. -/
theorem runningStepEndsAsItsOpcodeSays : Obligations.RunningStepEndsAsItsOpcodeSays := by
  intro s hrun
  obtain ⟨t, ht⟩ : ∃ t, runInstr (observe s) = .next t := exec_next _ _
  obtain ⟨hbrk, hill, hdoc⟩ := runInstr_run ht
  obtain ⟨hrun', hrule, hobs, hhost, hreply⟩ := observe_keepsLoop s
  obtain ⟨hrule', hobs', hhost', hreply'⟩ := exec_keepsHost ht
  exact ⟨t, (step_running hrun).trans ht, hbrk, hill, fun hb hi => (hdoc hb hi).trans (hrun'.trans hrun),
    hobs'.trans hobs, hhost'.trans hhost, hreply'.trans hreply, hrule'.trans hrule⟩

/-- Settles O9: the fetched instruction is the ILLEGAL byte, which faults at its own address. -/
theorem illegalByteFaultsPrecisely : Obligations.IllegalByteFaultsPrecisely :=
  fun _ hrun hill => (step_running hrun).trans (runInstr_illegal hill)

end Sys2Proof.Machine
end

section
/-! PROOFS. The step of a stopped machine: what each host operation does (70_reset_and_hazards.md), how a stopped machine is left
(60_exceptions.md R176, R188), and the invariant of every step. -/

namespace Sys2Proof.Machine

/-! ### run -/

/-- `run` on a faulted machine changes nothing (60_exceptions.md R176). -/
theorem startRun_faulted {s : State} {r : Fault} (h : s.run = .faulted r) (calls : List ObserverCall) : startRun calls s = s := by
  simp [startRun, h]

/-- `run` on a machine that has not faulted sets Running and resets nothing (40_fetch_execute_and_addressing.md R88). -/
theorem startRun_safe {s : State} (h : Safe s) (calls : List ObserverCall) :
    startRun calls s = { s with run := .running, observer := calls } := by
  unfold startRun
  split
  case h_1 r hr => exact absurd hr (h r)
  all_goals rfl

theorem safe_of_halted {s : State} (h : s.run = .halted) : Safe s := fun _ hr => RunState.noConfusion (h.symm.trans hr)

theorem fits_iff {prog : List Byte} : fits prog = true ↔ prog.length ≤ 0xFA00 := decide_eq_true_iff

/-! ### load and load_and_run -/

theorem hostStep_load {prog : List Byte} (h : prog.length ≤ 0xFA00) (s : State) :
    hostStep (.load prog) s = tell .done (loadProgram prog s) := if_pos (fits_iff.mpr h)

theorem hostStep_load_refused {prog : List Byte} (h : ¬ prog.length ≤ 0xFA00) (s : State) :
    hostStep (.load prog) s = tell (.loadRefused prog.length) s := if_neg (mt fits_iff.mp h)

theorem hostStep_loadAndRun {prog : List Byte} (h : prog.length ≤ 0xFA00) (calls : List ObserverCall) (s : State) :
    hostStep (.loadAndRun prog calls) s = tell .done (startRun calls (hostReset (loadProgram prog s))) :=
  if_pos (fits_iff.mpr h)

theorem hostStep_loadAndRun_refused {prog : List Byte} (h : ¬ prog.length ≤ 0xFA00) (calls : List ObserverCall) (s : State) :
    hostStep (.loadAndRun prog calls) s = tell (.loadRefused prog.length) s := if_neg (mt fits_iff.mp h)

/-! ### How a stopped machine is left -/

/-- A host operation leaves `run` alone, but for `run` and `load_and_run` of a machine that has not faulted
(60_exceptions.md R188). -/
theorem hostStep_run (op : HostOp) (s : State) : (hostStep op s).run = s.run ∨
    (Safe s ∧ (hostStep op s).run = .running ∧ ∃ calls, op = .run calls ∨ ∃ prog, op = .loadAndRun prog calls) := by
  have hstart : ∀ calls (t : State), t.run = s.run →
      (startRun calls t).run = s.run ∨ (Safe s ∧ (startRun calls t).run = .running) := by
    intro calls t ht
    by_cases h : Safe t
    · exact .inr ⟨fun r hr => h r (ht.trans hr), by rw [startRun_safe h]⟩
    · obtain ⟨r, hr⟩ : ∃ r, t.run = .faulted r := by simpa [Safe] using h
      exact .inl (by rw [startRun_faulted hr, ht])
  cases op with
  | run calls => exact (hstart calls s rfl).imp_right fun ⟨hs, h⟩ => ⟨hs, h, calls, .inl rfl⟩
  | loadAndRun prog calls =>
    by_cases hfit : prog.length ≤ 0xFA00
    · rw [hostStep_loadAndRun hfit]
      exact (hstart calls (hostReset (loadProgram prog s)) rfl).imp_right
        fun ⟨hs, h⟩ => ⟨hs, h, calls, .inr ⟨prog, rfl⟩⟩
    · exact .inl (by rw [hostStep_loadAndRun_refused hfit, tell_run])
  | load prog =>
    by_cases hfit : prog.length ≤ 0xFA00
    · exact .inl (by rw [hostStep_load hfit, tell_run, loadProgram_run])
    · exact .inl (by rw [hostStep_load_refused hfit, tell_run])
  | _ => exact .inl rfl

theorem step_faulted_idle {s : State} {r : Fault} (h : s.run = .faulted r) (hh : s.host = []) : step s = .fault r := by
  simp [step, h, stoppedStep, hh]

/-- Everything that a step of a stopped machine can answer. -/
theorem step_stopped_cases {s t : State} (h : s.run ≠ .running) (ht : step s = .next t) :
    t = s ∨ ∃ op rest, s.host = op :: rest ∧ t = hostStep op { s with host := rest } := by
  cases hh : s.host with
  | cons op rest => exact .inr ⟨op, rest, rfl, Host.Outcome.next.inj (ht.symm.trans (step_host h hh))⟩
  | nil =>
    cases hr : s.run with
    | running => exact absurd hr h
    | halted => exact .inl (Host.Outcome.next.inj (ht.symm.trans (step_idle hr hh)))
    | faulted r => exact nomatch ht.symm.trans (step_faulted_idle hr hh)

/-- Settles O10: a host operation leaves a fault alone, and only `run` and `load_and_run` start a halted machine. -/
theorem stoppedMachineIsLeftOnlyByRun : Obligations.StoppedMachineIsLeftOnlyByRun := by
  constructor
  · intro s r hr
    refine ⟨step_faulted_idle hr, fun t ht => ?_⟩
    rcases step_stopped_cases (by simp [hr]) ht with rfl | ⟨op, rest, -, rfl⟩
    · exact hr
    · rcases hostStep_run op { s with host := rest } with h | ⟨hsafe, -⟩
      · exact h.trans hr
      · exact absurd hr (hsafe r)
  · intro s t hr ht
    rcases step_stopped_cases (by simp [hr]) ht with rfl | ⟨op, rest, hh, rfl⟩
    · exact .inl hr
    · rcases hostStep_run op { s with host := rest } with h | ⟨-, h, calls, rfl | ⟨prog, rfl⟩⟩
      · exact .inl (h.trans hr)
      · exact .inr ⟨h, rest, calls, .inl hh⟩
      · exact .inr ⟨h, rest, calls, .inr ⟨prog, hh⟩⟩

/-! ### The invariant -/

/-- A step of the loop records no fault but of an ILLEGAL byte (60_exceptions.md R175). -/
theorem runInstr_legalRun {s t : State} (hs : LegalRun s.run) (h : runInstr s = .next t) : LegalRun t.run := by
  obtain ⟨hbrk, hill, hdoc⟩ := runInstr_run h
  by_cases hb : s.mem.read s.pc = 0x00
  · rw [hbrk hb]
    trivial
  by_cases hi : s.mem.read s.pc ∈ illegalBytes
  · rw [hill hi]
    exact hi
  · rwa [hdoc hb hi]

theorem hostStep_legalRun {op : HostOp} {s : State} (hs : LegalRun s.run) : LegalRun (hostStep op s).run := by
  rcases hostStep_run op s with h | ⟨-, h, -⟩
  · rwa [h]
  · rw [h]
    trivial

/-- Settles O11: the observer, the instruction and a host operation keep the canonical form, and of the three only an ILLEGAL byte
records a fault. -/
theorem stepKeepsTheInvariant : Obligations.StepKeepsTheInvariant := by
  rintro s t ⟨hmem, hlegal⟩ ht
  by_cases hrun : s.run = .running
  case pos =>
    have hexec : runInstr (observe s) = .next t := (step_running hrun).symm.trans ht
    exact ⟨exec_wf hexec (observe_wf s hmem), runInstr_legalRun (observe_run s ▸ hlegal) hexec⟩
  case neg =>
    rcases step_stopped_cases hrun ht with rfl | ⟨op, rest, -, rfl⟩
    · exact ⟨hmem, hlegal⟩
    · exact ⟨wf_hostStep op _ hmem, hostStep_legalRun hlegal⟩

/-- Settles O12: the memory after reset is empty and the machine halted. -/
theorem resetMeetsTheInvariant : Obligations.ResetMeetsTheInvariant := ⟨reset_wf, trivial⟩

end Sys2Proof.Machine
end

section
/-! PROOFS. What each host operation does, and that the list form of the observer loses nothing (70_reset_and_hazards.md;
60_exceptions.md section 4). -/

namespace Sys2Proof.Machine

/-! ### reset and run -/

/-- Settles O13: the fields after `reset`, PC being the little-endian word at the vector. -/
theorem resetSetsEveryRegister : Obligations.ResetSetsEveryRegister := by
  intro s rest hrun hh
  exact ⟨_, step_host hrun hh, rfl, rfl, rfl, rfl, rfl, Memory.read16_toNat s.mem Config.resetVector, rfl, rfl, rfl, rfl, rfl⟩

/-- Settles O17: `run` starts a halted machine where it stands and leaves a faulted one. -/
theorem runResumesAtTheCurrentPc : Obligations.RunResumesAtTheCurrentPc := by
  intro s calls rest hh
  refine ⟨fun hr => ?halted, fun r hr => ?faulted⟩
  case halted =>
    have hsafe : Safe { s with host := rest } := safe_of_halted hr
    rw [step_host (by simp [hr]) hh, hostStep, startRun_safe hsafe]
    rfl
  case faulted =>
    have hrest : ({ s with host := rest } : State).run = .faulted r := hr
    rw [step_host (by simp [hr]) hh, hostStep, startRun_faulted hrest]
    rfl

/-! ### load and load_and_run -/

/-- The memory of a loaded program: the program from 0x0600 on, the vector bytes last, and every other byte as it was
(70_reset_and_hazards.md R189). -/
theorem loadProgram_image (prog : List Byte) (s : State) (hwf : s.mem.wf = true) (hlen : prog.length ≤ 0xFA00) :
    (∀ k (h : k < prog.length), 0x0600 + k ≠ 0xFFFC → 0x0600 + k ≠ 0xFFFD →
      (loadProgram prog s).mem.read (BitVec.ofNat 16 (0x0600 + k)) = prog[k]) ∧
    (loadProgram prog s).mem.read 0xFFFC = 0x00 ∧ (loadProgram prog s).mem.read 0xFFFD = 0x06 ∧
    (∀ a : Word, a.toNat < 0x0600 ∨ 0x0600 + prog.length ≤ a.toNat → a ≠ 0xFFFC → a ≠ 0xFFFD →
      (loadProgram prog s).mem.read a = s.mem.read a) := by
  have hprog := Memory.wf_writeBytes s.mem Config.loadOrigin prog hwf
  have hread : ∀ a : Word, a ≠ 0xFFFC → a ≠ 0xFFFD →
      (loadProgram prog s).mem.read a = (prog[(a - 0x0600).toNat]?).getD (s.mem.read a) := by
    intro a hlo hhi
    exact (Memory.read_write16_other _ Config.loadOrigin hlo hhi).trans
      (Memory.read_writeBytes prog s.mem Config.loadOrigin a hwf (by omega))
  refine ⟨fun k hk hlo hhi => ?program, ?low, ?high, fun a ha hlo hhi => ?other⟩
  case program =>
    have hoff : (BitVec.ofNat 16 (0x0600 + k) - 0x0600).toNat = k := by bv_omega
    rw [hread _ (by bv_omega) (by bv_omega), hoff, List.getElem?_eq_getElem hk, Option.getD_some]
  case low => exact Memory.read_write16_low _ _ _ hprog
  case high => exact Memory.read_write16_high _ Config.resetVector _ hprog
  case other =>
    have hoff : prog.length ≤ (a - 0x0600).toNat := by bv_omega
    rw [hread a hlo hhi, List.getElem?_eq_none hoff, Option.getD_none]

/-- Settles O14: the step is the load, which makes the loaded image and changes nothing but memory. -/
theorem loadWritesTheProgramThenTheVector : Obligations.LoadWritesTheProgramThenTheVector := by
  intro s prog rest hwf hrun hh hlen
  obtain ⟨hprog, hlo, hhi, hother⟩ := loadProgram_image prog { s with host := rest } hwf hlen
  refine ⟨_, step_host hrun hh, ?_⟩
  rw [hostStep_load hlen]
  exact ⟨hprog, hlo, hhi, hother, fun r _ => by cases r <;> rfl, rfl, rfl, rfl, rfl⟩

/-- Settles O15: a program that does not fit is refused by both operations. -/
theorem overlongLoadIsRefused : Obligations.OverlongLoadIsRefused := by
  intro s prog rest hrun hlen
  refine ⟨fun hh => ?load, fun calls hh => ?loadAndRun⟩
  case load =>
    rw [step_host hrun hh, hostStep_load_refused (by omega)]
    rfl
  case loadAndRun =>
    rw [step_host hrun hh, hostStep_loadAndRun_refused (by omega)]
    rfl

/-- Settles O16: the load makes the image, the reset reads PC from its vector, and the run starts a halted machine. -/
theorem loadAndRunGivesTheStandardLaunch : Obligations.LoadAndRunGivesTheStandardLaunch := by
  intro s prog calls rest hwf hrun hh hlen
  obtain ⟨hprog, hlo, hhi, hother⟩ := loadProgram_image prog { s with host := rest } hwf hlen
  have hpc : (loadProgram prog { s with host := rest }).mem.read16 Config.resetVector = 0x0600 :=
    cat_congr hhi hlo
  have hsafe : Safe (hostReset (loadProgram prog { s with host := rest })) := safe_of_halted hrun
  refine ⟨_, step_host (by simp [hrun]) hh, ?_⟩
  rw [hostStep_loadAndRun hlen, startRun_safe hsafe]
  exact ⟨rfl, rfl, rfl, rfl, rfl, hpc, rfl, hprog, hlo, hhi, hother, rfl, rfl⟩

/-! ### The memory access surface -/

/-- Settles O18: the step performs the access, whose bytes are those of the memory laws. -/
theorem hostAccessSurfaceReadsAndWrites : Obligations.HostAccessSurfaceReadsAndWrites := by
  intro s a rest hwf hrun
  refine ⟨fun hh => ?read8, fun hh => ?read16, fun v hh => ?write8, fun w hh => ?write16⟩
  case read8 => exact step_host hrun hh
  case read16 => exact ⟨_, step_host hrun hh, Memory.read16_toNat s.mem a⟩
  case write8 =>
    refine ⟨_, step_host hrun hh, Memory.read_write_same _ _ _ hwf, ?_, fun r _ => by cases r <;> rfl, rfl, rfl, rfl, rfl⟩
    exact fun b hb => Memory.read_write_other _ _ _ _ (by simpa using hb)
  case write16 =>
    refine ⟨_, step_host hrun hh, ?_, ?_, ?_, fun r _ => by cases r <;> rfl, rfl, rfl, rfl, rfl⟩
    · exact (congrArg BitVec.toNat (Memory.read_write16_low s.mem a w hwf)).trans (loByte_toNat w)
    · exact (congrArg BitVec.toNat (Memory.read_write16_high s.mem a w hwf)).trans (hiByte_toNat w)
    · intro b hb
      obtain ⟨hlo, hhi⟩ : b ≠ a ∧ b ≠ a + 1 := by simpa using hb
      exact Memory.read_write16_other s.mem w hlo hhi

/-! ### The observer as a list of changes -/

/-- The changes that write the bytes of `m` at the listed addresses. -/
def copyBytes (m : Memory) (l : List Word) : ObserverCall := l.map fun a => .write8 a (m.read a)

theorem applyCall_copyBytes (m : Memory) (l : List Word) (s : State) (hwf : s.mem.wf = true) :
    ∃ m', applyCall (copyBytes m l) s = { s with mem := m' } ∧ m'.wf = true ∧
      ∀ b, m'.read b = if b ∈ l then m.read b else s.mem.read b := by
  induction l generalizing s with
  | nil => exact ⟨s.mem, rfl, hwf, fun b => by simp⟩
  | cons a l ih =>
    obtain ⟨m', hm', hwf', hread⟩ := ih (applyEdit s (.write8 a (m.read a))) (wf_applyEdit _ _ hwf)
    refine ⟨m', hm', hwf', fun b => ?_⟩
    rw [hread, applyEdit, Memory.read_write _ _ _ _ hwf]
    by_cases hb : b ∈ l <;> by_cases hba : b = a <;> simp [hb, hba]

/-- Every address of the machine. -/
def allWords : List Word := (List.range 65536).map (BitVec.ofNat 16)

theorem mem_allWords (a : Word) : a ∈ allWords :=
  List.mem_map.mpr ⟨a.toNat, List.mem_range.mpr a.isLt, by simp⟩

/-- Some changes of an observer put any memory in the place of the machine's. -/
theorem applyCall_setMem (m : Memory) (s : State) (hwf : s.mem.wf = true) (hm : m.wf = true) :
    applyCall (copyBytes m allWords) s = { s with mem := m } := by
  obtain ⟨m', hm', hwf', hread⟩ := applyCall_copyBytes m allWords s hwf
  have heq : m' = m := memoryIsDeterminedByItsReads m' m hwf' hm fun a => by rw [hread, if_pos (mem_allWords a)]
  rw [hm', heq]

/-- The changes that write every register, P and PC as `t` has them. -/
def copyRegisters (t : State) : ObserverCall := [.setA t.a, .setX t.x, .setY t.y, .setSp t.sp, .setP t.p, .setPc t.pc]

theorem applyCall_copyRegisters (t : State) (call : ObserverCall) (s : State) :
    applyCall (copyRegisters t ++ call) s =
      applyCall call { s with a := t.a, x := t.x, y := t.y, sp := t.sp, p := t.p, pc := t.pc } := rfl

/-- Settles O20: the call writes the registers, P and PC that the observer leaves, and then its memory. -/
theorem everyObserverIsAListOfChanges : Obligations.EveryObserverIsAListOfChanges := by
  intro obs s hwf hwf' hkeep
  obtain ⟨hrun, hrule, hobs, hhost, hreply⟩ := hkeep
  refine ⟨copyRegisters (obs s) ++ copyBytes (obs s).mem allWords, ?_⟩
  rw [applyCall_copyRegisters, applyCall_setMem _ _ (by exact hwf) hwf', ← hrun, ← hrule, ← hobs, ← hhost, ← hreply]

end Sys2Proof.Machine
end

section
/-! PROOFS. P as its flags, and the effective addresses in plain arithmetic (10_state.md R27; 40_fetch_execute_and_addressing.md
section 2). -/

namespace Sys2Proof.Machine

theorem getFlag_toNat (p : Byte) (f : Flag) : (getFlag p f).toNat = p.toNat / 2 ^ f.bit % 2 := Nat.toNat_testBit _ _

/-- Settles O25: each flag is a binary digit of P. -/
theorem statusByteIsItsFlags : Obligations.StatusByteIsItsFlags := by
  intro s
  have := s.p.isLt
  simp only [State.flag, getFlag_toNat, Flag.bit]
  omega

/-! ### Addresses -/

theorem zext_eq_ofNat (z : Byte) : zext z = BitVec.ofNat 16 z.toNat := (BitVec.ofNat_toNat 16 z).symm

/-- An index in page 0 wraps in the page (40_fetch_execute_and_addressing.md R104). -/
theorem zext_add (z x : Byte) : zext (z + x) = BitVec.ofNat 16 ((z.toNat + x.toNat) % 256) := by
  rw [zext_eq_ofNat, BitVec.toNat_add]

/-- An index of a word wraps at 65536 (40_fetch_execute_and_addressing.md R106). -/
theorem word_add_zext (w : Word) (x : Byte) : w + zext x = BitVec.ofNat 16 (w.toNat + x.toNat) := by
  rw [zext_eq_ofNat, BitVec.ofNat_add, BitVec.ofNat_toNat 16 w, BitVec.setWidth_eq]

theorem cat_eq_ofNat (hi lo : Byte) : cat hi lo = BitVec.ofNat 16 (lo.toNat + 256 * hi.toNat) := by
  apply BitVec.eq_of_toNat_eq
  have := hi.isLt
  have := lo.isLt
  rw [cat_toNat, BitVec.toNat_ofNat]
  omega

/-- Where the resolver gives an address, the source byte is the one at it, the Immediate mode apart
(40_fetch_execute_and_addressing.md R111). -/
theorem sourceByte_of_address {o : Operand} {s : State} {ea : Word} (hi : o.mode ≠ .immediate)
    (h : effectiveAddress o s = some ea) : sourceByte o s = some (s.mem.read ea) := by
  cases o
  case immediate => exact absurd rfl hi
  all_goals rw [sourceByte, h, Option.map_some]; exact nofun

/-- Settles O26: each address is its formula, the sums written in plain arithmetic. -/
theorem directModesResolveAsStated : Obligations.DirectModesResolveAsStated := by
  intro s z w
  refine ⟨rfl, rfl, congrArg some (zext_eq_ofNat z), ?zeroPageX, ?zeroPageY, rfl, ?absoluteX, ?absoluteY, rfl, rfl,
    fun _ _ => sourceByte_of_address⟩
  case zeroPageX => rw [effectiveAddress, zext_add]
  case zeroPageY => rw [effectiveAddress, zext_add]
  case absoluteX => rw [effectiveAddress, word_add_zext]
  case absoluteY => rw [effectiveAddress, word_add_zext]

/-- Both bytes of a pointer in page 0 are read in page 0 (40_fetch_execute_and_addressing.md R107, R108). -/
theorem zeroPagePointer_eq (m : Memory) (z : Byte) : zeroPagePointer m z = BitVec.ofNat 16
    ((m.read (BitVec.ofNat 16 z.toNat)).toNat + 256 * (m.read (BitVec.ofNat 16 ((z.toNat + 1) % 256))).toNat) := by
  rw [zeroPagePointer, cat_eq_ofNat, zext_add, zext_eq_ofNat]
  rfl

/-- Settles O27: the address is the pointer, to which Indirect_Y adds Y. -/
theorem indirectModesReadTheirPointerInPageZero : Obligations.IndirectModesReadTheirPointerInPageZero := by
  intro s z
  constructor
  · have hnext : ((z.toNat + s.x.toNat) % 256 + 1) % 256 = (z.toNat + s.x.toNat + 1) % 256 := by omega
    rw [effectiveAddress, zeroPagePointer_eq, BitVec.toNat_add, hnext]
  · rw [effectiveAddress, zeroPagePointer_eq, zext_eq_ofNat, ← BitVec.ofNat_add]

end Sys2Proof.Machine
end

section
/-! PROOFS. The frame of an instruction, read off the rules of the whole machine by its kind. -/

namespace Sys2Proof.Machine

/-- A, X, Y and S. -/
def allRegs : List Reg := [.a, .x, .y, .sp]

theorem mem_allRegs (r : Reg) : r ∈ allRegs := by cases r <;> decide

/-- The spec's summaries let the kind write these registers and flags, no other, neither memory nor PC, and not end the loop
(10_state.md R18, R22, R31; 20_memory.md R46; 40_fetch_execute_and_addressing.md R96). -/
abbrev OnlyWrites (k : Kind) (regs : List Reg) (flags : List Flag) : Prop :=
  (∀ r ∈ allRegs, r ∉ regs → k ∉ regWriters r) ∧ (∀ f ∈ allFlags, f ∉ flags → k ∉ flagWriters f) ∧
  k ∉ memWriters ++ shiftKinds ∧ k ∉ pcWriters ∧ k ≠ .brk ∧ k ≠ .illegal

section
variable {i : Instr} {s t : State} (ht : exec i s = .next t) (k : Kind) (hk : i.kind = k)
include ht hk

theorem exec_keepsRegs {regs : List Reg} (hs : k ∉ shiftKinds := by decide)
    (hr : ∀ r ∈ allRegs, r ∉ regs → k ∉ regWriters r := by decide) : KeepsRegs regs s t := by
  subst hk
  intro r hmem
  refine exec_reg ht ?_
  rintro (h | ⟨-, h, -⟩)
  · exact hr r (mem_allRegs r) hmem h
  · exact hs h

theorem exec_keepsFlags {flags : List Flag} (hf : ∀ f ∈ allFlags, f ∉ flags → k ∉ flagWriters f := by decide) :
    KeepsFlags flags s t := by
  subst hk
  exact fun f hmem => exec_flag ht (hf f (mem_allFlags f) hmem)

theorem exec_keepsMem (hm : k ∉ memWriters ++ shiftKinds := by decide) : KeepsMem [] s t := by
  subst hk
  obtain ⟨hw, hs⟩ : i.kind ∉ memWriters ∧ i.kind ∉ shiftKinds := by simpa using hm
  have hmem : t.mem = s.mem := exec_mem ht (by simp [MayWriteMem, hw, hs])
  exact fun a _ => congrArg (·.read a) hmem

theorem exec_goesOn (hwf : i.WellFormed) (hst : k ≠ .brk ∧ k ≠ .illegal := by decide) : KeepsLoop s t := by
  subst hk
  exact exec_keepsLoop ht (not_mayStop hwf hst.1 hst.2)

theorem exec_advances (hwf : i.WellFormed) {n : Nat} (hn : i.length = n) (hpc : k ∉ pcWriters := by decide) :
    Advanced n s t := by
  subst hk hn
  exact exec_advanced ht hwf hpc

/-- The frame of an instruction that changes only registers, flags and PC. -/
theorem exec_onlyChanges (hwf : i.WellFormed) {n : Nat} (hn : i.length = n) {regs : List Reg} {flags : List Flag}
    (hw : OnlyWrites k regs flags := by decide) : OnlyChanges regs flags n s t := by
  obtain ⟨hr, hf, hm, hpc, hst⟩ := hw
  exact ⟨exec_keepsRegs ht k hk (fun hs => hm (List.mem_append_right _ hs)) hr, exec_keepsFlags ht k hk hf,
    exec_keepsMem ht k hk hm, exec_goesOn ht k hk hwf hst, exec_advances ht k hk hwf hn hpc⟩

end

/-! ### What the shared operations answer for a well-formed instruction -/

section
variable {i : Instr} {s : State} {o : Operand} (k : Kind) (hk : i.kind = k) (ho : i.mode = o.mode) (hwf : i.WellFormed)
include hk ho hwf

theorem mode_mem_of_kind : o.mode ∈ k.modes := hk ▸ ho ▸ Instr.mode_mem_of_wellFormed hwf

theorem exec_withSource {f : Byte → State → State} (hx : exec i s = withSource o f s)
    (hm : ∀ m ∈ k.modes, m ≠ Mode.accumulator ∧ m ≠ .indirect := by decide) :
    ∃ v, sourceByte o s = some v ∧ exec i s = .next (advance o.length (f v s)) := by
  obtain ⟨v, hv⟩ := sourceByte_isSome o s (hm _ (mode_mem_of_kind k hk ho hwf))
  exact ⟨v, hv, hx.trans (withSource_some hv)⟩

theorem exec_storeByte {v : Byte} (hx : exec i s = storeByte o v s)
    (hm : ∀ m ∈ k.modes, m ≠ Mode.accumulator ∧ m ≠ .indirect := by decide) :
    ∃ ea, effectiveAddress o s = some ea ∧ exec i s = .next (advance o.length (writeByte ea v s)) := by
  obtain ⟨ea, hea⟩ := effectiveAddress_isSome o s (hm _ (mode_mem_of_kind k hk ho hwf))
  exact ⟨ea, hea, hx.trans (storeByte_some hea)⟩

theorem exec_modifyByte {f : Byte → Byte} (hx : exec i s = modifyByte o f s)
    (hm : ∀ m ∈ k.modes, m ≠ Mode.accumulator ∧ m ≠ .indirect := by decide) :
    ∃ ea, effectiveAddress o s = some ea ∧
      exec i s = .next (advance o.length (setZN (f (s.mem.read ea)) (writeByte ea (f (s.mem.read ea)) s))) := by
  obtain ⟨ea, hea⟩ := effectiveAddress_isSome o s (hm _ (mode_mem_of_kind k hk ho hwf))
  exact ⟨ea, hea, hx.trans (modifyByte_some hea)⟩

end

/-- A byte written leaves every other byte (20_memory.md R42). -/
theorem writeByte_keepsMem (ea : Word) (v : Byte) (s : State) : KeepsMem [ea] s (writeByte ea v s) :=
  fun a ha => Memory.read_write_other s.mem ea a v (by simpa using ha)

end Sys2Proof.Machine
end

section
/-! PROOFS. Loads and stores (41_load_store.md). -/

namespace Sys2Proof.Machine

/-- An instruction that computes a byte from its source byte, puts it into a register and sets Z and N from it. -/
theorem exec_sourceResult {i : Instr} {s : State} {o : Operand} (k : Kind) (hk : i.kind = k) (ho : i.mode = o.mode)
    (hwf : i.WellFormed) (r : Reg) (g : Byte → State → Byte)
    (hx : exec i s = withSource o (fun m s => setZN (g m s) (s.setReg r (g m s))) s)
    (hm : ∀ m ∈ k.modes, m ≠ Mode.accumulator ∧ m ≠ .indirect := by decide) (hw : OnlyWrites k [r] [.z, .n] := by decide) :
    ∃ m t, sourceByte o s = some m ∧ exec i s = .next t ∧ t.reg r = g m s ∧ ZNFrom (g m s) t ∧
      OnlyChanges [r] [.z, .n] o.length s t := by
  obtain ⟨m, hsrc, ht⟩ := exec_withSource k hk ho hwf hx hm
  refine ⟨m, _, hsrc, ht, ?_, setZN_ZNFrom _ _, exec_onlyChanges ht k hk hwf (congrArg Mode.length ho) hw⟩
  rw [advance_reg, setZN_reg, State.setReg_reg, if_pos rfl]

/-- Settles O28: the source byte goes into the register and `SetZN`, and the kind's rules give the frame. -/
theorem loadsTakeTheSourceByte : Obligations.LoadsTakeTheSourceByte := by
  refine ⟨⟨hasOpcodes_of_modes, hasOpcodes_of_modes, hasOpcodes_of_modes⟩,
    fun o s => ⟨fun hwf => ?lda, fun hwf => ?ldx, fun hwf => ?ldy⟩⟩
  case lda => exact exec_sourceResult .lda rfl rfl hwf .a (fun v _ => v) rfl
  case ldx => exact exec_sourceResult .ldx rfl rfl hwf .x (fun v _ => v) rfl
  case ldy => exact exec_sourceResult .ldy rfl rfl hwf .y (fun v _ => v) rfl

/-- A store writes its byte at the effective address and changes nothing else but PC. -/
theorem exec_stored {i : Instr} {s : State} {o : Operand} {v : Byte} (k : Kind) (hk : i.kind = k) (ho : i.mode = o.mode)
    (hwf : i.WellFormed) (hx : exec i s = storeByte o v s) (hmem : s.mem.wf = true)
    (hs : k ∈ [Kind.sta, .stx, .sty] := by decide) :
    ∃ ea t, effectiveAddress o s = some ea ∧ exec i s = .next t ∧ t.mem.read ea = v ∧ KeepsMem [ea] s t ∧ KeepsRegs [] s t ∧
      KeepsFlags [] s t ∧ KeepsLoop s t ∧ Advanced o.length s t := by
  have hstore : ∀ k ∈ [Kind.sta, .stx, .sty], (∀ m ∈ k.modes, m ≠ Mode.accumulator ∧ m ≠ .indirect) ∧ k ∉ shiftKinds ∧
      (∀ r ∈ allRegs, r ∉ [] → k ∉ regWriters r) ∧ (∀ f ∈ allFlags, f ∉ [] → k ∉ flagWriters f) ∧
      (k ≠ .brk ∧ k ≠ .illegal) ∧ k ∉ pcWriters := by decide
  obtain ⟨hm, hshift, hr, hf, hst, hpc⟩ := hstore k hs
  obtain ⟨ea, hea, ht⟩ := exec_storeByte k hk ho hwf hx hm
  exact ⟨ea, _, hea, ht, Memory.read_write_same s.mem ea v hmem, writeByte_keepsMem ea v s, exec_keepsRegs ht k hk hshift hr,
    exec_keepsFlags ht k hk hf, exec_goesOn ht k hk hwf hst, exec_advances ht k hk hwf (congrArg Mode.length ho) hpc⟩

/-- Settles O29: the stores are the shared one with the byte of their register. -/
theorem storesWriteOneByte : Obligations.StoresWriteOneByte := by
  refine ⟨⟨hasOpcodes_of_modes, hasOpcodes_of_modes, hasOpcodes_of_modes⟩,
    fun o s hmem => ⟨fun hwf => ?sta, fun hwf => ?stx, fun hwf => ?sty⟩⟩
  case sta => exact exec_stored .sta rfl rfl hwf (v := s.a) rfl hmem
  case stx => exact exec_stored .stx rfl rfl hwf (v := s.x) rfl hmem
  case sty => exact exec_stored .sty rfl rfl hwf (v := s.y) rfl hmem

end Sys2Proof.Machine
end

section
/-! PROOFS. ADC, SBC, AND, ORA and EOR (42_arithmetic_logical.md). -/

namespace Sys2Proof.Machine

/-! ### The adder -/

/-- Two bytes have the same sign bit. -/
theorem byte_msb_eq_iff (v w : Byte) : v.msb = w.msb ↔ (128 ≤ v.toNat ↔ 128 ≤ w.toNat) := by
  simp [BitVec.msb_eq_decide]

/-- The signed value of a byte, from its unsigned one. -/
theorem byte_toInt_cases (v : Byte) :
    (v.toNat < 128 ∧ v.toInt = v.toNat) ∨ (128 ≤ v.toNat ∧ v.toInt = (v.toNat : Int) - 256) := by
  rw [BitVec.toInt_eq_toNat_cond]
  omega

/-- The result of the adder is the sum modulo 256 (42_arithmetic_logical.md R118). -/
theorem addC_sum (a b : Byte) (cin : Bool) : (addC a b cin).1.toNat = (a.toNat + b.toNat + cin.toNat) % 256 :=
  BitVec.toNat_ofNat _ _

/-- The carry out of the adder (42_arithmetic_logical.md R118). -/
theorem addC_carry (a b : Byte) (cin : Bool) : (addC a b cin).2.1 = true ↔ 255 < a.toNat + b.toNat + cin.toNat := by
  simp [addC]

/-- A byte masked to its bit 7 is 0 exactly when that bit is. -/
theorem and_mask_seven_ne_zero (v : Byte) : (v &&& 0x80 != 0) = v.msb := by
  revert v
  decide

/-- The overflow of the adder: addends of one sign and a result of the other (42_arithmetic_logical.md R118). -/
theorem addC_overflow (a b : Byte) (cin : Bool) :
    (addC a b cin).2.2 = true ↔ a.msb = b.msb ∧ (addC a b cin).1.msb ≠ a.msb := by
  have hv : (addC a b cin).2.2 = (((addC a b cin).1.msb ^^ b.msb) && ((addC a b cin).1.msb ^^ a.msb)) := by
    rw [← BitVec.msb_xor, ← BitVec.msb_xor, ← BitVec.msb_and, ← and_mask_seven_ne_zero]
    rfl
  have hxor : ∀ x y r : Bool, ((r ^^ y) && (r ^^ x)) = true ↔ x = y ∧ r ≠ x := by decide
  rw [hv]
  exact hxor _ _ _

/-- The overflow of the adder: the signed sum is out of a byte's range. -/
theorem addC_overflow_range (a b : Byte) (cin : Bool) :
    (addC a b cin).2.2 = true ↔ a.toInt + b.toInt + cin.toNat < -128 ∨ 127 < a.toInt + b.toInt + cin.toNat := by
  have hsum := addC_sum a b cin
  have hcin := cin.toNat_le
  have ha := byte_toInt_cases a
  have hb := byte_toInt_cases b
  have ha' := a.isLt
  have hb' := b.isLt
  rw [addC_overflow, Ne, byte_msb_eq_iff, byte_msb_eq_iff]
  omega

/-! ### ADC and SBC -/

theorem addToA_ZNFrom (b : Byte) (s : State) : ZNFrom (addToA b s).a (addToA b s) := setZN_ZNFrom _ _

/-- Settles O30: C, V, Z and N are the adder's, and the kind's rules give the frame. -/
theorem adcAddsWithCarry : Obligations.AdcAddsWithCarry := by
  refine ⟨hasOpcodes_of_modes, fun o s hwf => ?_⟩
  obtain ⟨m, hm, ht⟩ := exec_withSource .adc rfl rfl hwf (s := s) (f := addToA) rfl
  refine ⟨m, _, hm, ht, addC_sum s.a m _, ?carry, ?signs, ?range, addToA_ZNFrom m s, exec_onlyChanges ht .adc rfl hwf rfl⟩
  case carry => exact (Bool.eq_iff_iff.mp (addToA_flag m s .c)).trans (addC_carry s.a m _)
  case signs => exact (Bool.eq_iff_iff.mp (addToA_flag m s .v)).trans (addC_overflow s.a m _)
  case range => exact (Bool.eq_iff_iff.mp (addToA_flag m s .v)).trans (addC_overflow_range s.a m _)

theorem byte_not_toNat (m : Byte) : ((~~~ m).toNat : Int) = 255 - m.toNat := by
  have := m.isLt
  rw [BitVec.toNat_not]
  omega

theorem byte_not_toInt (m : Byte) : (~~~ m).toInt = -1 - m.toInt := by
  have hnot := byte_not_toNat m
  have hm := byte_toInt_cases m
  have hn := byte_toInt_cases (~~~ m)
  omega

/-- Settles O31: SBC adds the complement, so that a carry out is the absence of a borrow. -/
theorem sbcSubtractsWithBorrow : Obligations.SbcSubtractsWithBorrow := by
  refine ⟨hasOpcodes_of_modes, fun o s hwf => ?_⟩
  obtain ⟨m, hm, ht⟩ := exec_withSource .sbc rfl rfl hwf (s := s) (f := fun m s => addToA (~~~ m) s) rfl
  have hnot := byte_not_toNat m
  refine ⟨m, _, hm, ht, ?difference, ?carry, ?range, addToA_ZNFrom _ s, exec_onlyChanges ht .sbc rfl hwf rfl⟩
  case difference =>
    have hsum : (((addC s.a (~~~ m) (s.flag .c)).1.toNat : Nat) : Int) = ((s.a.toNat : Int) - m.toNat - (1 - s.carry)) % 256 := by
      rw [addC_sum, ← State.carry]
      omega
    exact hsum
  case carry =>
    refine ((Bool.eq_iff_iff.mp (addToA_flag (~~~ m) s .c)).trans (addC_carry s.a (~~~ m) _)).trans ?_
    rw [← State.carry]
    omega
  case range =>
    refine ((Bool.eq_iff_iff.mp (addToA_flag (~~~ m) s .v)).trans (addC_overflow_range s.a (~~~ m) _)).trans ?_
    rw [← State.carry, byte_not_toInt]
    omega

/-! ### AND, ORA, EOR -/

/-- Settles O32: A takes the bitwise result, and the kind's rules give the frame. -/
theorem logicalInstructionsCombineIntoA : Obligations.LogicalInstructionsCombineIntoA := by
  refine ⟨⟨hasOpcodes_of_modes, hasOpcodes_of_modes, hasOpcodes_of_modes⟩,
    fun o s => ⟨fun hwf => ?and, fun hwf => ?ora, fun hwf => ?eor⟩⟩
  case and =>
    obtain ⟨m, t, hm, ht, (ha : t.a = s.a &&& m), hzn, honly⟩ := exec_sourceResult .and rfl rfl hwf .a (fun m s => s.a &&& m) rfl
    exact ⟨m, t, hm, ht, fun k _ => by rw [ha, BitVec.getLsbD_and], by rwa [ha], honly⟩
  case ora =>
    obtain ⟨m, t, hm, ht, (ha : t.a = s.a ||| m), hzn, honly⟩ := exec_sourceResult .ora rfl rfl hwf .a (fun m s => s.a ||| m) rfl
    exact ⟨m, t, hm, ht, fun k _ => by rw [ha, BitVec.getLsbD_or], by rwa [ha], honly⟩
  case eor =>
    obtain ⟨m, t, hm, ht, (ha : t.a = s.a ^^^ m), hzn, honly⟩ := exec_sourceResult .eor rfl rfl hwf .a (fun m s => s.a ^^^ m) rfl
    exact ⟨m, t, hm, ht, fun k _ => by rw [ha, BitVec.getLsbD_xor], by rwa [ha], honly⟩

end Sys2Proof.Machine
end

section
/-! PROOFS. The shifts and rotates (43_shifts_rotates.md). -/

namespace Sys2Proof.Machine

/-! ### The bytes -/

theorem aslByte_result (v : Byte) (c : Bool) : (aslByte v c).1.toNat = v.toNat * 2 % 256 := by
  simp [aslByte, Nat.shiftLeft_eq]

theorem rolByte_result (v : Byte) (c : Bool) : (rolByte v c).1.toNat = (v.toNat * 2 + c.toNat) % 256 := by
  revert v c
  decide

theorem lsrByte_result (v : Byte) (c : Bool) : (lsrByte v c).1.toNat = v.toNat / 2 := by
  simp [lsrByte, Nat.shiftRight_eq_div_pow]

theorem rorByte_result (v : Byte) (c : Bool) : (rorByte v c).1.toNat = v.toNat / 2 + 128 * c.toNat := by
  revert v c
  decide

/-- Bit 0 of a byte tells whether it is odd. -/
theorem byte_getLsbD_zero_iff (v : Byte) : v.getLsbD 0 = true ↔ v.toNat % 2 = 1 := by
  simp [BitVec.getLsbD, Nat.testBit_zero]

/-! ### The instructions -/

/-- The operand of a memory form is its source byte (40_fetch_execute_and_addressing.md R111). -/
theorem operandByte_of_ne_accumulator {o : Operand} (h : o ≠ .accumulator) (s : State) : operandByte o s = sourceByte o s := by
  cases o
  case accumulator => exact absurd rfl h
  all_goals rfl

/-- A well-formed shift puts the shifted byte where the operand is, the bit shifted out into C, and Z and N from the result;
nothing else changes (43_shifts_rotates.md R125). -/
structure Shifted (o : Operand) (v r : Byte) (c : Bool) (s t : State) : Prop where
  operand : operandByte o s = some v
  result : WroteBack o r s t
  carry : t.flag .c = c
  zn : ZNFrom r t
  flags : KeepsFlags [.c, .z, .n] s t
  loop : KeepsLoop s t
  pc : Advanced o.length s t

theorem shiftKinds_frame : ∀ k ∈ shiftKinds, (∀ m ∈ k.modes, m ≠ Mode.immediate ∧ m ≠ .indirect) ∧
    (∀ f ∈ allFlags, f ∉ [Flag.c, .z, .n] → k ∉ flagWriters f) ∧ (∀ r ∈ allRegs, k ∉ regWriters r) ∧
    (k ≠ .brk ∧ k ≠ .illegal) ∧ k ∉ pcWriters := by decide

theorem exec_shifted {i : Instr} {s : State} {o : Operand} (k : Kind) (hk : i.kind = k) (ho : i.mode = o.mode)
    (hwf : i.WellFormed) {f : Byte → Bool → Byte × Bool} (hx : ∀ s, exec i s = shiftOperand o f s) (hmem : s.mem.wf = true)
    (hs : k ∈ shiftKinds := by decide) :
    ∃ v t, exec i s = .next t ∧ Shifted o v (f v (s.flag .c)).1 (f v (s.flag .c)).2 s t := by
  obtain ⟨hm, hf, hr, hst, hpc⟩ := shiftKinds_frame k hs
  obtain ⟨himm, hind⟩ := hm _ (mode_mem_of_kind k hk ho hwf)
  have hlen : i.length = o.length := congrArg Mode.length ho
  have hregs : ∀ {t}, exec i s = .next t → ∀ r, i.mode ≠ .accumulator ∨ r ≠ .a → t.reg r = s.reg r := by
    intro t ht r hra
    refine exec_reg ht ?_
    rintro (h | ⟨ha, -, hacc⟩)
    · exact hr r (mem_allRegs r) (hk ▸ h)
    · exact hra.elim (· hacc) (· ha)
  by_cases hacc : o = .accumulator
  case pos =>
    subst hacc
    have ht := (hx s).trans (shiftOperand_accumulator f s)
    refine ⟨s.a, _, ht, rfl, ⟨fun _ => ⟨rfl, ?_, fun _ _ => rfl⟩, nofun⟩, ?_, setZN_ZNFrom _ _,
      exec_keepsFlags ht k hk hf, exec_goesOn ht k hk hwf hst, exec_advances ht k hk hwf hlen hpc⟩
    · exact fun r hmem => hregs ht r (.inr (by simpa using hmem))
    · exact (setZN_flag _ _ .c).trans (getFlag_put_same _ _ _)
  case neg =>
    have hmode : o.mode ≠ .accumulator := mt o.mode_eq_accumulator_iff.mp hacc
    obtain ⟨ea, hea⟩ := effectiveAddress_isSome o s ⟨hmode, hind⟩
    have ht := (hx s).trans (shiftOperand_memory hea himm)
    have hop : operandByte o s = some (s.mem.read ea) :=
      (operandByte_of_ne_accumulator hacc s).trans (sourceByte_of_address himm hea)
    refine ⟨s.mem.read ea, _, ht, hop, ⟨fun e => absurd e hacc, fun ea' hea' => ?_⟩, ?_, setZN_ZNFrom _ _,
      exec_keepsFlags ht k hk hf, exec_goesOn ht k hk hwf hst, exec_advances ht k hk hwf hlen hpc⟩
    · obtain rfl : ea = ea' := Option.some.inj (hea.symm.trans hea')
      exact ⟨Memory.read_write_same s.mem ea _ hmem, writeByte_keepsMem ea _ s, fun r _ => hregs ht r (.inl (ho ▸ hmode))⟩
    · exact (setZN_flag _ _ .c).trans (getFlag_put_same _ _ _)

/-- Settles O33: the shared shift, with the bytes of ASL and ROL. -/
theorem leftShiftsMoveUpOneBit : Obligations.LeftShiftsMoveUpOneBit := by
  refine ⟨⟨hasOpcodes_of_modes, hasOpcodes_of_modes⟩,
    fun o s hmem => ⟨fun hwf => ?asl, fun hwf => ?rol⟩⟩
  case asl =>
    obtain ⟨v, t, ht, h⟩ := exec_shifted .asl rfl rfl hwf (f := aslByte) (fun _ => rfl) hmem
    exact ⟨v, _, t, h.operand, ht, h.result, aslByte_result v _, h.carry ▸ byte_getLsbD_seven_iff v,
      h.zn, h.flags, h.loop, h.pc⟩
  case rol =>
    obtain ⟨v, t, ht, h⟩ := exec_shifted .rol rfl rfl hwf (f := rolByte) (fun _ => rfl) hmem
    exact ⟨v, _, t, h.operand, ht, h.result, rolByte_result v _, h.carry ▸ byte_getLsbD_seven_iff v,
      h.zn, h.flags, h.loop, h.pc⟩

/-- Settles O34: the shared shift, with the bytes of LSR and ROR, whose bit 7 is 0 and the previous carry. -/
theorem rightShiftsMoveDownOneBit : Obligations.RightShiftsMoveDownOneBit := by
  refine ⟨⟨hasOpcodes_of_modes, hasOpcodes_of_modes⟩,
    fun o s hmem => ⟨fun hwf => ?lsr, fun hwf => ?ror⟩⟩
  case lsr =>
    obtain ⟨v, t, ht, h⟩ := exec_shifted .lsr rfl rfl hwf (f := lsrByte) (fun _ => rfl) hmem
    have hres := lsrByte_result v (s.flag .c)
    have hn : t.flag .n = false := by
      have := v.isLt
      rw [Bool.eq_false_iff, Ne, h.zn.2, hres]
      omega
    exact ⟨v, _, t, h.operand, ht, h.result, hres, h.carry ▸ byte_getLsbD_zero_iff v,
      h.zn, hn, h.flags, h.loop, h.pc⟩
  case ror =>
    obtain ⟨v, t, ht, h⟩ := exec_shifted .ror rfl rfl hwf (f := rorByte) (fun _ => rfl) hmem
    have hres := rorByte_result v (s.flag .c)
    have hn : t.flag .n = s.flag .c := by
      have := v.isLt
      have := (s.flag .c).toNat_le
      rw [Bool.eq_iff_iff, h.zn.2, hres, ← Bool.toNat_eq_one]
      omega
    exact ⟨v, _, t, h.operand, ht, h.result, hres, h.carry ▸ byte_getLsbD_zero_iff v,
      h.zn, hn, h.flags, h.loop, h.pc⟩

end Sys2Proof.Machine
end

section
/-! PROOFS. The compares and BIT (44_compare.md; 49_flags_bit_nop_brk.md R172). -/

namespace Sys2Proof.Machine

/-- A compare of a register sets the flags of `Compare`, and changes nothing else but PC. -/
theorem exec_compared {i : Instr} {s : State} {o : Operand} (k : Kind) (hk : i.kind = k) (ho : i.mode = o.mode)
    (hwf : i.WellFormed) (reg : State → Byte) (hx : exec i s = withSource o (fun m s => compareFlags (reg s) m s) s)
    (hm : ∀ m ∈ k.modes, m ≠ Mode.accumulator ∧ m ≠ .indirect := by decide)
    (hw : OnlyWrites k [] [.c, .z, .n] := by decide) :
    ∃ m t, sourceByte o s = some m ∧ exec i s = .next t ∧ (t.flag .c = true ↔ m.toNat ≤ (reg s).toNat) ∧
      (t.flag .z = true ↔ reg s = m) ∧ (t.flag .n = true ↔ 128 ≤ ((reg s).toNat + 256 - m.toNat) % 256) ∧
      OnlyChanges [] [.c, .z, .n] o.length s t := by
  obtain ⟨m, hsrc, ht⟩ := exec_withSource k hk ho hwf hx hm
  obtain ⟨hc, hz, hn, -⟩ := compareDerivesCZNFromTheDifference (reg s) m s
  exact ⟨m, _, hsrc, ht, hc, hz, hn, exec_onlyChanges ht k hk hwf (congrArg Mode.length ho) hw⟩

/-- Settles O35: the compares are the shared one on their register. -/
theorem comparesSetFlagsOnly : Obligations.ComparesSetFlagsOnly := by
  refine ⟨⟨hasOpcodes_of_modes, hasOpcodes_of_modes, hasOpcodes_of_modes⟩,
    fun o s => ⟨fun hwf => ?cmp, fun hwf => ?cpx, fun hwf => ?cpy⟩⟩
  case cmp => exact exec_compared .cmp rfl rfl hwf State.a rfl
  case cpx => exact exec_compared .cpx rfl rfl hwf State.x rfl
  case cpy => exact exec_compared .cpy rfl rfl hwf State.y rfl

/-- Two bytes have no bit in common exactly when their conjunction is 0. -/
theorem byte_and_eq_zero_iff (a m : Byte) : a &&& m = 0 ↔ ∀ k < 8, ¬ (a.getLsbD k = true ∧ m.getLsbD k = true) := by
  constructor
  · intro h k _ hk
    have hbit := congrArg (·.getLsbD k) h
    simp [hk.1, hk.2] at hbit
  · intro h
    refine BitVec.eq_of_getLsbD_eq fun k hk => ?_
    simpa using h k hk

/-- Settles O36: Z is the conjunction's, N and V are bits of the operand, and the kind's rules give the frame. -/
theorem bitTestsTheOperand : Obligations.BitTestsTheOperand := by
  refine ⟨hasOpcodes_of_modes, fun o s hwf => ?_⟩
  obtain ⟨m, hm, ht⟩ := exec_withSource .bit rfl rfl hwf (s := s) (f := bitFlags) rfl
  refine ⟨m, _, hm, ht, ?zero, bitFlags_flag m s .n, bitFlags_flag m s .v, exec_onlyChanges ht .bit rfl hwf rfl⟩
  exact (Bool.eq_iff_iff.mp (bitFlags_flag m s .z)).trans (beq_iff_eq.trans (byte_and_eq_zero_iff s.a m))

end Sys2Proof.Machine
end

section
/-! PROOFS. Branches, jumps, calls and returns (45_branches.md; 46_jumps_calls_returns.md). -/

namespace Sys2Proof.Machine

/-! ### PC after a jump -/

/-- A jump from the baseline `s.pc`, whatever else the instruction has written (40_fetch_execute_and_addressing.md R95, R97). -/
theorem wentTo_jump {s s' : State} (target : Word) (n : Nat) (hpc : s'.pc = s.pc) (hrule : s'.pcRule = s.pcRule) :
    WentTo target n s (jump n target s') := by
  rw [WentTo, jump_pc, hpc, hrule]
  constructor
  · rintro (h | h) <;> simp only [nextPc, h]
    cases s.pcRule <;> simp
  · rintro ⟨h, rfl⟩
    simp [nextPc, h]

/-- A jump of a one-byte instruction is the same under both rules (40_fetch_execute_and_addressing.md R97). -/
theorem jump_one_pc (target : Word) (s : State) : (jump 1 target s).pc = target := by
  rw [jump_pc]
  cases s.pcRule with
  | byKind => rfl
  | byCompare => by_cases h : target = s.pc <;> simp [nextPc, h]

/-- A jump and an advance change nothing but PC. -/
theorem jump_frame (n : Nat) (w : Word) (s : State) :
    KeepsRegs [] s (jump n w s) ∧ KeepsFlags [] s (jump n w s) ∧ KeepsMem [] s (jump n w s) ∧ KeepsLoop s (jump n w s) :=
  ⟨fun r _ => jump_reg n w s r, fun _ _ => rfl, fun _ _ => rfl, rfl, rfl, rfl, rfl, rfl⟩

theorem advance_frame (n : Nat) (s : State) :
    KeepsRegs [] s (advance n s) ∧ KeepsFlags [] s (advance n s) ∧ KeepsMem [] s (advance n s) ∧
    KeepsLoop s (advance n s) :=
  ⟨fun r _ => advance_reg n s r, fun _ _ => rfl, fun _ _ => rfl, rfl, rfl, rfl, rfl, rfl⟩

/-! ### Branches -/

/-- The target of a branch: the offset byte's address plus the signed offset plus 1 (45_branches.md R134). -/
theorem branch_target (base : Word) (off : Byte) : base + sext off + 1 = BitVec.ofInt 16 (base.toNat + 1 + off.toInt) := by
  rw [BitVec.add_assoc, BitVec.add_comm (sext off), ← BitVec.add_assoc]
  exact add_sext_eq_ofInt base 1 off

theorem branch_branched (cond : Bool) (off : Byte) (s : State) :
    ∃ t, branch cond off s = .next t ∧ Branched cond off s t := by
  refine ⟨_, branch_next cond off s, ?_⟩
  cases cond with
  | true => exact ⟨fun _ => branch_target s.pc off ▸ wentTo_jump _ 2 rfl rfl, nofun, jump_frame 2 _ s⟩
  | false => exact ⟨nofun, fun _ => rfl, advance_frame 2 s⟩

/-- Settles O37: the eight branches are the shared one on their flags. -/
theorem branchesFollowTheirFlag : Obligations.BranchesFollowTheirFlag := by
  refine ⟨⟨hasOpcodes_of_modes, hasOpcodes_of_modes, hasOpcodes_of_modes, hasOpcodes_of_modes, hasOpcodes_of_modes,
    hasOpcodes_of_modes, hasOpcodes_of_modes, hasOpcodes_of_modes⟩, fun off s => ?_⟩
  exact ⟨branch_branched (!s.flag .c) off s, branch_branched (s.flag .c) off s, branch_branched (s.flag .z) off s,
    branch_branched (s.flag .n) off s, branch_branched (!s.flag .z) off s, branch_branched (!s.flag .n) off s,
    branch_branched (!s.flag .v) off s, branch_branched (s.flag .v) off s⟩

/-! ### Jumps and calls -/

/-- The pointer of JMP indirect, its second byte in the pointer's page (46_jumps_calls_returns.md R145). -/
theorem pageWrappedPointer_toNat (m : Memory) (w : Word) : (pageWrappedPointer m w).toNat = (m.read w).toNat +
    256 * (m.read (BitVec.ofNat 16 (w.toNat / 256 * 256 + (w.toNat % 256 + 1) % 256))).toNat := by
  have haddr : cat (hiByte w) (loByte w + 1) = BitVec.ofNat 16 (w.toNat / 256 * 256 + (w.toNat % 256 + 1) % 256) := by
    apply BitVec.eq_of_toNat_eq
    have := w.isLt
    have hone : (1 : Byte).toNat = 1 := rfl
    rw [cat_toNat, BitVec.toNat_add, hiByte_toNat, loByte_toNat, BitVec.toNat_ofNat, hone]
    omega
  rw [pageWrappedPointer, cat_toNat, haddr]
  omega

/-- Settles O38: both forms are a jump, to the operand word or to the word that the pointer names. -/
theorem jmpSetsPc : Obligations.JmpSetsPc := by
  refine ⟨hasOpcodes_of_modes, fun w s => ⟨?absolute, ?indirect⟩⟩
  case absolute => exact ⟨_, rfl, wentTo_jump w 3 rfl rfl, jump_frame 3 w s⟩
  case indirect => exact ⟨_, _, rfl, wentTo_jump _ 3 rfl rfl, pageWrappedPointer_toNat s.mem w, jump_frame 3 _ s⟩

/-- JSR pushes the address of its last byte and jumps (46_jumps_calls_returns.md R146). -/
theorem exec_jsr (w : Word) (s : State) : exec (.jsr w) s = .next (jump 3 w (push16 (s.pc + 1) s)) := rfl

/-- Settles O39: the pushed word is the baseline plus 1, in the two cells of a pushed word. -/
theorem jsrPushesTheReturnAddress : Obligations.JsrPushesTheReturnAddress := by
  refine ⟨hasOpcodes_of_modes, fun w s hmem => ?_⟩
  have ht := exec_jsr w s
  have hpc : (s.pc + 1).toNat = (s.pc.toNat + 1) % 65536 := BitVec.toNat_add _ _
  rw [stackCell_toNat, stackCell_toNat_add_255]
  refine ⟨_, ht, wentTo_jump w 3 rfl rfl, ?high, ?low, push16_keepsMem _ s, ?sp, exec_keepsRegs ht .jsr rfl,
    exec_keepsFlags ht .jsr rfl, exec_goesOn ht .jsr rfl rfl⟩
  case high => rw [jump_mem, push16_read_high _ s hmem, hiByte_toNat, hpc]
  case low =>
    rw [jump_mem, push16_read_low _ s hmem, loByte_toNat, hpc]
    omega
  case sp =>
    rw [jump_sp, push16_sp]
    bv_omega

/-! ### Returns -/

theorem exec_rts (s : State) : exec .rts s = .next (jump 1 ((pop16 s).1 + 1) (pop16 s).2) := execRts_eq s

/-- The word that a pop reads, the low byte at the cell above S (20_memory.md R54). -/
theorem pop16_toNat (s : State) : (pop16 s).1.toNat =
    (s.mem.read (stackCell (s.sp.toNat + 1))).toNat + 256 * (s.mem.read (stackCell (s.sp.toNat + 2))).toNat := by
  have hone : s.sp + 1 = s.sp + BitVec.ofNat 8 1 := rfl
  have htwo : s.sp + 1 + 1 = s.sp + BitVec.ofNat 8 2 := by bv_omega
  rw [stackCell_toNat_add, stackCell_toNat_add, pop16_fst, cat_toNat, htwo, hone]
  omega

/-- Settles O40: RTS jumps to the popped word plus 1, and is one byte long. -/
theorem rtsReturnsToThePoppedWordPlusOne : Obligations.RtsReturnsToThePoppedWordPlusOne := by
  refine ⟨hasOpcodes_of_modes, fun s => ?_⟩
  have ht := exec_rts s
  refine ⟨_, ht, ?pc, ?sp, exec_keepsRegs ht .rts rfl, exec_keepsFlags ht .rts rfl, exec_keepsMem ht .rts rfl,
    exec_goesOn ht .rts rfl rfl⟩
  case pc =>
    rw [jump_one_pc, ← pop16_toNat, BitVec.ofNat_add, BitVec.ofNat_toNat, BitVec.setWidth_eq]
    rfl
  case sp =>
    rw [jump_sp, pop16_snd]
    bv_omega

theorem exec_rti (s : State) : exec .rti s = .next (jump 1 (pop16 (statusRestored s)).1 (pop16 (statusRestored s)).2) :=
  execRti_eq s

/-- The flags that RTI restores (46_jumps_calls_returns.md R148). -/
theorem returnStatus_flag (p : Byte) (f : Flag) :
    getFlag (returnStatus p) f = if f = .b2 then true else if f = .b then false else getFlag p f := by
  rw [returnStatus, getFlag_put, getFlag_put]

/-- Settles O41: RTI pops the status, then the word that it jumps to. -/
theorem rtiRestoresStatusAndPc : Obligations.RtiRestoresStatusAndPc := by
  refine ⟨hasOpcodes_of_modes, fun s => ?_⟩
  have ht := exec_rti s
  have hflag : ∀ f, (jump 1 (pop16 (statusRestored s)).1 (pop16 (statusRestored s)).2).flag f =
      getFlag (returnStatus (s.mem.read (stackAddress (s.sp + 1)))) f := fun _ => rfl
  refine ⟨_, ht, fun f hb hb2 => ?flag, ?b, ?b2, ?pc, ?sp, exec_keepsRegs ht .rti rfl, exec_keepsMem ht .rti rfl,
    exec_goesOn ht .rti rfl rfl⟩
  case flag =>
    rw [hflag, returnStatus_flag, if_neg hb2, if_neg hb, stackCell_toNat_add]
    rfl
  case b => rw [hflag, returnStatus_flag, if_neg (by decide), if_pos rfl]
  case b2 => rw [hflag, returnStatus_flag, if_pos rfl]
  case pc =>
    have hcell : ∀ k : Nat, stackCell ((statusRestored s).sp.toNat + k) = stackCell (s.sp.toNat + (k + 1)) := by
      intro k
      have hsp : s.sp + 1 + BitVec.ofNat 8 k = s.sp + BitVec.ofNat 8 (k + 1) := by bv_omega
      rw [stackCell_toNat_add, stackCell_toNat_add, ← hsp]
      rfl
    rw [jump_one_pc, pop16_toNat, hcell, hcell]
    rfl
  case sp =>
    have hsp : s.sp + 1 + 1 + 1 = s.sp + 3 := by bv_omega
    exact hsp

/-- Settles O42: the pop of RTS reads the word that JSR pushed, one below the byte after the JSR. -/
theorem rtsUndoesJsr : Obligations.RtsUndoesJsr := by
  intro w s t u hmem hjsr husp huhi hulo
  obtain rfl : jump 3 w (push16 (s.pc + 1) s) = t := Host.Outcome.next.inj ((exec_jsr w s).symm.trans hjsr)
  rw [stackCell_toNat, jump_mem, push16_read_high _ s hmem] at huhi
  rw [stackCell_toNat_add_255, jump_mem, push16_read_low _ s hmem] at hulo
  obtain ⟨hword, hsp⟩ := pop16_of_pushed husp huhi hulo
  refine ⟨_, exec_rts u, ?_, hsp⟩
  rw [jump_one_pc, hword]
  bv_omega

end Sys2Proof.Machine
end

section
/-! PROOFS. Increments, transfers and the stack instructions (47_increments_decrements.md; 48_transfers_stack.md). -/

namespace Sys2Proof.Machine

/-! ### Increments and decrements -/

theorem byte_toNat_inc (v : Byte) : (v + 1).toNat = (v.toNat + 1) % 256 := BitVec.toNat_add _ _

theorem byte_toNat_dec (v : Byte) : (v - 1).toNat = (v.toNat + 255) % 256 := byte_toNat_sub v 1

/-- INC and DEC modify the byte at the effective address, set Z and N from it, and change nothing else but PC. -/
theorem exec_modified {i : Instr} {s : State} {o : Operand} (k : Kind) (hk : i.kind = k) (ho : i.mode = o.mode)
    (hwf : i.WellFormed) (f : Byte → Byte) (hx : exec i s = modifyByte o f s) (hmem : s.mem.wf = true)
    (hs : k ∈ [Kind.inc, .dec] := by decide) :
    ∃ ea t, effectiveAddress o s = some ea ∧ exec i s = .next t ∧ t.mem.read ea = f (s.mem.read ea) ∧ KeepsMem [ea] s t ∧
      ZNFrom (t.mem.read ea) t ∧ KeepsFlags [.z, .n] s t ∧ KeepsRegs [] s t ∧ KeepsLoop s t ∧ Advanced o.length s t := by
  have hmodify : ∀ k ∈ [Kind.inc, .dec], (∀ m ∈ k.modes, m ≠ Mode.accumulator ∧ m ≠ .indirect) ∧ k ∉ shiftKinds ∧
      (∀ r ∈ allRegs, r ∉ [] → k ∉ regWriters r) ∧ (∀ f ∈ allFlags, f ∉ [Flag.z, .n] → k ∉ flagWriters f) ∧
      (k ≠ .brk ∧ k ≠ .illegal) ∧ k ∉ pcWriters := by decide
  obtain ⟨hm, hshift, hr, hf, hst, hpc⟩ := hmodify k hs
  obtain ⟨ea, hea, ht⟩ := exec_modifyByte k hk ho hwf hx hm
  have hread := Memory.read_write_same s.mem ea (f (s.mem.read ea)) hmem
  exact ⟨ea, _, hea, ht, hread, writeByte_keepsMem ea _ s, hread.symm ▸ setZN_ZNFrom (f (s.mem.read ea)) _,
    exec_keepsFlags ht k hk hf, exec_keepsRegs ht k hk hshift hr, exec_goesOn ht k hk hwf hst,
    exec_advances ht k hk hwf (congrArg Mode.length ho) hpc⟩

/-- Settles O43: the shared modification, counting up and down. -/
theorem incAndDecModifyOneByte : Obligations.IncAndDecModifyOneByte := by
  refine ⟨⟨hasOpcodes_of_modes, hasOpcodes_of_modes⟩, fun o s hmem => ⟨fun hwf => ?inc, fun hwf => ?dec⟩⟩
  case inc =>
    obtain ⟨ea, t, hea, ht, hread, hframe⟩ := exec_modified .inc rfl rfl hwf (fun v => v + 1) rfl hmem
    exact ⟨ea, t, hea, ht, (congrArg BitVec.toNat hread).trans (byte_toNat_inc _), hframe⟩
  case dec =>
    obtain ⟨ea, t, hea, ht, hread, hframe⟩ := exec_modified .dec rfl rfl hwf (fun v => v - 1) rfl hmem
    exact ⟨ea, t, hea, ht, (congrArg BitVec.toNat hread).trans (byte_toNat_dec _), hframe⟩

/-- An instruction of one byte that puts a byte into a register and sets Z and N from it (10_state.md R29). -/
theorem exec_result {i : Instr} {s : State} (k : Kind) (hk : i.kind = k) (hwf : i.WellFormed) (hlen : i.length = 1) (r : Reg)
    (v : Byte) (hx : exec i s = .next (advance 1 (setZN v (s.setReg r v)))) (hw : OnlyWrites k [r] [.z, .n] := by decide) :
    ∃ t, exec i s = .next t ∧ t.reg r = v ∧ ZNFrom v t ∧ OnlyChanges [r] [.z, .n] 1 s t := by
  have hreg : (s.setReg r v).reg r = v := by rw [State.setReg_reg, if_pos rfl]
  refine ⟨_, hx, ?_, setZN_ZNFrom v _, exec_onlyChanges hx k hk hwf hlen hw⟩
  rw [advance_reg, setZN_reg, hreg]

/-- Settles O44: the register takes the count, and the kind's rules give the frame. -/
theorem indexRegistersCountModulo256 : Obligations.IndexRegistersCountModulo256 := by
  refine ⟨⟨hasOpcodes_of_modes, hasOpcodes_of_modes, hasOpcodes_of_modes, hasOpcodes_of_modes⟩,
    fun s => ?_⟩
  refine ⟨?inx, ?iny, ?dex, ?dey⟩
  case inx =>
    obtain ⟨t, ht, (hx : t.x = s.x + 1), hzn, honly⟩ := exec_result (i := .inx) .inx rfl rfl rfl .x (s.x + 1) rfl
    exact ⟨t, ht, (congrArg BitVec.toNat hx).trans (byte_toNat_inc _), by rwa [hx], honly⟩
  case iny =>
    obtain ⟨t, ht, (hy : t.y = s.y + 1), hzn, honly⟩ := exec_result (i := .iny) .iny rfl rfl rfl .y (s.y + 1) rfl
    exact ⟨t, ht, (congrArg BitVec.toNat hy).trans (byte_toNat_inc _), by rwa [hy], honly⟩
  case dex =>
    obtain ⟨t, ht, (hx : t.x = s.x - 1), hzn, honly⟩ := exec_result (i := .dex) .dex rfl rfl rfl .x (s.x - 1) rfl
    exact ⟨t, ht, (congrArg BitVec.toNat hx).trans (byte_toNat_dec _), by rwa [hx], honly⟩
  case dey =>
    obtain ⟨t, ht, (hy : t.y = s.y - 1), hzn, honly⟩ := exec_result (i := .dey) .dey rfl rfl rfl .y (s.y - 1) rfl
    exact ⟨t, ht, (congrArg BitVec.toNat hy).trans (byte_toNat_dec _), by rwa [hy], honly⟩

/-! ### Transfers -/

/-- Settles O45: the register takes the other's byte, and the kind's rules give the frame. -/
theorem transfersCopyAndSetZN : Obligations.TransfersCopyAndSetZN := by
  refine ⟨⟨hasOpcodes_of_modes, hasOpcodes_of_modes, hasOpcodes_of_modes, hasOpcodes_of_modes, hasOpcodes_of_modes⟩,
    fun s => ?_⟩
  exact ⟨exec_result (i := .tax) .tax rfl rfl rfl .x s.a rfl, exec_result (i := .tay) .tay rfl rfl rfl .y s.a rfl,
    exec_result (i := .tsx) .tsx rfl rfl rfl .x s.sp rfl, exec_result (i := .txa) .txa rfl rfl rfl .a s.x rfl,
    exec_result (i := .tya) .tya rfl rfl rfl .a s.y rfl⟩

theorem exec_txs (s : State) : exec .txs s = .next (advance 1 { s with sp := s.x }) := rfl

/-- Settles O46: S takes X, and the kind's rules give the frame. -/
theorem txsWritesNoFlag : Obligations.TxsWritesNoFlag :=
  ⟨hasOpcodes_of_modes,
    fun s => ⟨_, exec_txs s, rfl, exec_onlyChanges (exec_txs s) .txs rfl rfl rfl⟩⟩

/-! ### Pushes and pulls -/

theorem exec_pha (s : State) : exec .pha s = .next (advance 1 (push8 s.a s)) := rfl

theorem exec_php (s : State) : exec .php s = .next (advance 1 (push8 (s.p ||| 0x30) s)) := rfl

theorem push8_read (v : Byte) (s : State) (h : s.mem.wf = true) : (push8 v s).mem.read (stackAddress s.sp) = v :=
  Memory.read_write_same _ _ _ h

theorem push8_keepsMem (v : Byte) (s : State) : KeepsMem [stackAddress s.sp] s (push8 v s) :=
  fun a ha => Memory.read_write_other _ _ _ _ (by simpa using ha)

/-- Settles O47: A goes to the cell that S names, and the kind's rules give the rest of the frame. -/
theorem phaPushesA : Obligations.PhaPushesA := by
  refine ⟨hasOpcodes_of_modes, fun s hmem => ?_⟩
  have ht := exec_pha s
  rw [stackCell_toNat]
  exact ⟨_, ht, push8_read s.a s hmem, push8_keepsMem s.a s, rfl, exec_keepsRegs ht .pha rfl, exec_keepsFlags ht .pha rfl,
    exec_goesOn ht .pha rfl rfl, exec_advances ht .pha rfl rfl rfl⟩

/-- The status that PHP pushes has B and B2 set (48_transfers_stack.md R162). -/
theorem pushedStatus_flag (p : Byte) (f : Flag) : (p ||| 0x30).getLsbD f.bit = (getFlag p f || f == .b || f == .b2) := by
  have hmask : (0x30 : Byte).getLsbD f.bit = (f == .b || f == .b2) := by cases f <;> rfl
  rw [BitVec.getLsbD_or, hmask, Bool.or_assoc]
  rfl

/-- Settles O48: P with B and B2 set goes to the cell that S names, and the kind's rules give the rest of the frame. -/
theorem phpPushesStatusWithBreakBitsSet : Obligations.PhpPushesStatusWithBreakBitsSet := by
  refine ⟨hasOpcodes_of_modes, fun s hmem => ?_⟩
  have ht := exec_php s
  rw [stackCell_toNat]
  refine ⟨_, ht, fun f => ?_, push8_keepsMem _ s, rfl, exec_keepsRegs ht .php rfl, exec_keepsFlags ht .php rfl,
    exec_goesOn ht .php rfl rfl, exec_advances ht .php rfl rfl rfl⟩
  rw [advance_mem, push8_read _ s hmem]
  exact pushedStatus_flag s.p f

theorem exec_pla (s : State) : exec .pla s = .next (advance 1 (setZN (pop8 s).1 ((pop8 s).2.setReg .a (pop8 s).1))) :=
  execPla_eq s

theorem exec_plp (s : State) : exec .plp s = .next (advance 1 { (pop8 s).2 with p := (pop8 s).1 }) := execPlp_eq s

/-- Settles O49: both read the cell above S, and the kinds' rules give the frame. -/
theorem pullsReadTheStack : Obligations.PullsReadTheStack := by
  refine ⟨⟨hasOpcodes_of_modes, hasOpcodes_of_modes⟩,
    fun s => ?_⟩
  rw [stackCell_toNat_add]
  refine ⟨?pla, ?plp⟩
  case pla =>
    have ht := exec_pla s
    exact ⟨_, ht, rfl, setZN_ZNFrom _ _, rfl, exec_onlyChanges ht .pla rfl rfl rfl⟩
  case plp =>
    have ht := exec_plp s
    exact ⟨_, ht, rfl, rfl, exec_keepsRegs ht .plp rfl, exec_keepsMem ht .plp rfl, exec_goesOn ht .plp rfl rfl,
      exec_advances ht .plp rfl rfl rfl⟩

end Sys2Proof.Machine
end

section
/-! PROOFS. The flag instructions, NOP, BRK and the ILLEGAL bytes (49_flags_bit_nop_brk.md;
40_fetch_execute_and_addressing.md R93). -/

namespace Sys2Proof.Machine

/-- An instruction of one byte that writes one flag. -/
theorem exec_flagWritten {i : Instr} {s : State} (k : Kind) (hk : i.kind = k) (hwf : i.WellFormed) (hlen : i.length = 1)
    (f : Flag) (v : Bool) (hx : exec i s = .next (advance 1 (s.setFlag f v))) (hw : OnlyWrites k [] [f] := by decide) :
    ∃ t, exec i s = .next t ∧ t.flag f = v ∧ OnlyChanges [] [f] 1 s t :=
  ⟨_, hx, getFlag_put_same s.p f v, exec_onlyChanges hx k hk hwf hlen hw⟩

theorem exec_nop (s : State) : exec .nop s = .next (advance 1 s) := rfl

/-- Settles O50: each writes its flag, and the kinds' rules give the frame. -/
theorem flagInstructionsWriteOneFlag : Obligations.FlagInstructionsWriteOneFlag := by
  refine ⟨⟨hasOpcodes_of_modes, hasOpcodes_of_modes, hasOpcodes_of_modes, hasOpcodes_of_modes, hasOpcodes_of_modes,
    hasOpcodes_of_modes, hasOpcodes_of_modes, hasOpcodes_of_modes⟩,
    fun s => ?_⟩
  exact ⟨exec_flagWritten (i := .clc) .clc rfl rfl rfl .c false rfl, exec_flagWritten (i := .cld) .cld rfl rfl rfl .d false rfl,
    exec_flagWritten (i := .cli) .cli rfl rfl rfl .i false rfl, exec_flagWritten (i := .clv) .clv rfl rfl rfl .v false rfl,
    exec_flagWritten (i := .sec) .sec rfl rfl rfl .c true rfl, exec_flagWritten (i := .sed) .sed rfl rfl rfl .d true rfl,
    exec_flagWritten (i := .sei) .sei rfl rfl rfl .i true rfl,
    ⟨_, exec_nop s, exec_onlyChanges (exec_nop s) .nop rfl rfl rfl⟩⟩

/-- Settles O51: the two instructions that write `run` and nothing else. -/
theorem brkHaltsAndIllegalFaults : Obligations.BrkHaltsAndIllegalFaults := ⟨hasOpcodes_brk, fun _ _ => ⟨rfl, rfl⟩⟩

end Sys2Proof.Machine
end
